-- ==== Sys2Proof/Word.lean ====
section
/-! DEFINITION. The word types of the block (00_scope.md R7, R9): what the spec treats as bits. -/

namespace Sys2Proof

/-- A register value, address, pc value or instruction word (R9: "a 32-bit unsigned bit vector"). -/
abbrev Word := BitVec 32

/-- One byte of memory (R135). -/
abbrev Byte := BitVec 8

/-- The 5-bit instruction field that names a general register (R101, R318). -/
abbrev RegIdx := BitVec 5

/-- The 12-bit address that names an entry of the CSR store (R125, R316). -/
abbrev CsrAddr := BitVec 12

end Sys2Proof
end

