-- ==== Sys2Proof/Config.lean ====
section
/-! DEFINITION. The parameters of the block (00_scope.md R7), fixed for a whole run. Every one the spec leaves OPEN is a
field here, so that a statement about every state is a statement about every setting of it (log entries 1 and 2). -/

namespace Sys2Proof

/-- FENCE_DECODE (R7, R330, D11): how the MISC-MEM major opcode decodes. -/
inductive FenceDecode where
  | illegal
  | nop
  deriving DecidableEq, Repr

/-- The parameters of R7 that the host supplies at reset (R1003, port `config`). -/
structure Config where
  /-- MEM_REQ, the requested memory size in bytes (D2). -/
  memReq : Nat
  /-- MEM_FILL, what every byte of memory holds before the image is loaded (R136, D1). -/
  memFill : Byte
  /-- ENTRY_PC (R115, D6). -/
  entryPc : Word
  /-- EXEC_LIMIT; 0 means no limit (R907, D7). -/
  execLimit : BitVec 64
  /-- TRACE_EN (R930). -/
  traceEn : Bool
  /-- CSR_IMPL with CSR_INIT: each implemented CSR address with its reset value (R125, D12), addresses rising. -/
  csrInit : List (CsrAddr × Word)
  /-- FENCE_DECODE (R330, D11). -/
  fenceDecode : FenceDecode
  deriving DecidableEq, Repr

/-- The ranges R7 gives its parameters: MEM_REQ at most 2^32, MEM_FILL not zero, and CSR_IMPL a set, written with its
addresses strictly rising (log entry 23). -/
abbrev Config.wf (c : Config) : Prop :=
  c.memReq ≤ 2 ^ 32 ∧ c.memFill ≠ 0#8 ∧ (c.csrInit.map fun e => e.1.toNat).Pairwise (· < ·)

/-- POISON, the reset value of x1..x31 (R7, R105; D22 takes the source's literal as normative). -/
def Config.poison : Word := 0xF0F0F0F0#32

/-- The parameter values of `State.reset`. ENTRY_PC is the spec's default (R115). DESIGN CHOICE (log entry 2, unsafe): the
spec leaves the others to the host. MEM_REQ is the largest R7 allows, so that every address has storage; MEM_FILL, CSR_IMPL
and CSR_INIT are example settings of 95_test_vectors.md; FENCE_DECODE = Nop lets every row of the opcode table run. -/
def Config.atReset : Config where
  memReq := 2 ^ 32
  memFill := 0xA5#8
  entryPc := 0#32
  execLimit := 0#64
  traceEn := false
  csrInit := [(0x340#12, 0x0000000F#32)]
  fenceDecode := .nop

end Sys2Proof
end

