-- ==== Sys2Proof/Syntax.lean ====
section
/-! DEFINITION. The instructions of spec/opcode_table.json, one constructor a row, and the decoded form of a word
(30_encoding.md R321). An operand is the field its format carries, not yet extended: 12-bit immediates as they stand in the
word, branch and JAL offsets as the 13-bit and 21-bit values of R312 and R314 with their bit 0. -/

namespace Sys2Proof

inductive Instr where
  -- OP, R-format (R322)
  | add (rd rs1 rs2 : RegIdx)
  | sub (rd rs1 rs2 : RegIdx)
  | sll (rd rs1 rs2 : RegIdx)
  | slt (rd rs1 rs2 : RegIdx)
  | sltu (rd rs1 rs2 : RegIdx)
  | xor (rd rs1 rs2 : RegIdx)
  | srl (rd rs1 rs2 : RegIdx)
  | sra (rd rs1 rs2 : RegIdx)
  | or (rd rs1 rs2 : RegIdx)
  | and (rd rs1 rs2 : RegIdx)
  -- OP-IMM, I-format (R323)
  | addi (rd rs1 : RegIdx) (imm : BitVec 12)
  | slti (rd rs1 : RegIdx) (imm : BitVec 12)
  | sltiu (rd rs1 : RegIdx) (imm : BitVec 12)
  | xori (rd rs1 : RegIdx) (imm : BitVec 12)
  | ori (rd rs1 : RegIdx) (imm : BitVec 12)
  | andi (rd rs1 : RegIdx) (imm : BitVec 12)
  | slli (rd rs1 : RegIdx) (shamt : BitVec 5)
  | srli (rd rs1 : RegIdx) (shamt : BitVec 5)
  | srai (rd rs1 : RegIdx) (shamt : BitVec 5)
  -- LOAD, I-format (R324)
  | lb (rd rs1 : RegIdx) (imm : BitVec 12)
  | lh (rd rs1 : RegIdx) (imm : BitVec 12)
  | lw (rd rs1 : RegIdx) (imm : BitVec 12)
  | lbu (rd rs1 : RegIdx) (imm : BitVec 12)
  | lhu (rd rs1 : RegIdx) (imm : BitVec 12)
  -- STORE, S-format (R325)
  | sb (rs1 rs2 : RegIdx) (imm : BitVec 12)
  | sh (rs1 rs2 : RegIdx) (imm : BitVec 12)
  | sw (rs1 rs2 : RegIdx) (imm : BitVec 12)
  -- BRANCH, B-format (R326)
  | beq (rs1 rs2 : RegIdx) (offset : BitVec 13)
  | bne (rs1 rs2 : RegIdx) (offset : BitVec 13)
  | blt (rs1 rs2 : RegIdx) (offset : BitVec 13)
  | bge (rs1 rs2 : RegIdx) (offset : BitVec 13)
  | bltu (rs1 rs2 : RegIdx) (offset : BitVec 13)
  | bgeu (rs1 rs2 : RegIdx) (offset : BitVec 13)
  -- JAL, JALR (R327, R328)
  | jal (rd : RegIdx) (offset : BitVec 21)
  | jalr (rd rs1 : RegIdx) (imm : BitVec 12)
  -- LUI, AUIPC, U-format (R328)
  | lui (rd : RegIdx) (imm : BitVec 20)
  | auipc (rd : RegIdx) (imm : BitVec 20)
  -- SYSTEM (R329)
  | ecall
  | ebreak
  | csrrw (rd rs1 : RegIdx) (csr : CsrAddr)
  | csrrs (rd rs1 : RegIdx) (csr : CsrAddr)
  | csrrc (rd rs1 : RegIdx) (csr : CsrAddr)
  | csrrwi (rd : RegIdx) (zimm : BitVec 5) (csr : CsrAddr)
  | csrrsi (rd : RegIdx) (zimm : BitVec 5) (csr : CsrAddr)
  | csrrci (rd : RegIdx) (zimm : BitVec 5) (csr : CsrAddr)
  -- MISC-MEM (R330); the fields are carried and ignored (log entry 11)
  | fence (rd rs1 : RegIdx) (fmPredSucc : BitVec 12)
  | fenceI (rd rs1 : RegIdx) (imm : BitVec 12)
  deriving DecidableEq, Repr

/-- The result of decoding a word (R321): an instruction, or ILLEGAL, which "carries the raw word for diagnostic
reporting" (R335). -/
inductive Decoded where
  | instr (i : Instr)
  | illegal (word : Word)
  deriving DecidableEq, Repr

/-- One row of spec/opcode_table.json: `word &&& mask = value` picks the row. -/
structure OpcodeRow where
  mnemonic : String
  value : Word
  mask : Word
  /-- The row's "condition": decoded only under FENCE_DECODE = Nop. -/
  onlyNop : Bool
  deriving DecidableEq, Repr

/-- The mnemonic spec/opcode_table.json gives the instruction. -/
def Instr.mnemonic : Instr → String
  | .add _ _ _ => "ADD"
  | .sub _ _ _ => "SUB"
  | .sll _ _ _ => "SLL"
  | .slt _ _ _ => "SLT"
  | .sltu _ _ _ => "SLTU"
  | .xor _ _ _ => "XOR"
  | .srl _ _ _ => "SRL"
  | .sra _ _ _ => "SRA"
  | .or _ _ _ => "OR"
  | .and _ _ _ => "AND"
  | .addi _ _ _ => "ADDI"
  | .slti _ _ _ => "SLTI"
  | .sltiu _ _ _ => "SLTIU"
  | .xori _ _ _ => "XORI"
  | .ori _ _ _ => "ORI"
  | .andi _ _ _ => "ANDI"
  | .slli _ _ _ => "SLLI"
  | .srli _ _ _ => "SRLI"
  | .srai _ _ _ => "SRAI"
  | .lb _ _ _ => "LB"
  | .lh _ _ _ => "LH"
  | .lw _ _ _ => "LW"
  | .lbu _ _ _ => "LBU"
  | .lhu _ _ _ => "LHU"
  | .sb _ _ _ => "SB"
  | .sh _ _ _ => "SH"
  | .sw _ _ _ => "SW"
  | .beq _ _ _ => "BEQ"
  | .bne _ _ _ => "BNE"
  | .blt _ _ _ => "BLT"
  | .bge _ _ _ => "BGE"
  | .bltu _ _ _ => "BLTU"
  | .bgeu _ _ _ => "BGEU"
  | .jal _ _ => "JAL"
  | .jalr _ _ _ => "JALR"
  | .lui _ _ => "LUI"
  | .auipc _ _ => "AUIPC"
  | .ecall => "ECALL"
  | .ebreak => "EBREAK"
  | .csrrw _ _ _ => "CSRRW"
  | .csrrs _ _ _ => "CSRRS"
  | .csrrc _ _ _ => "CSRRC"
  | .csrrwi _ _ _ => "CSRRWI"
  | .csrrsi _ _ _ => "CSRRSI"
  | .csrrci _ _ _ => "CSRRCI"
  | .fence _ _ _ => "FENCE"
  | .fenceI _ _ _ => "FENCE.I"

end Sys2Proof
end

