-- ==== Sys2Proof/Decode.lean ====
section
/-! DEFINITION. Byte order of a word, instruction fields, the decoder and the encoder (30_encoding.md). The numeric opcode,
funct3 and funct7 values and the register positions are the spec's, which marks them as general knowledge made normative by
92_eei_decisions.md D21 (log entry 12). -/

namespace Sys2Proof

/-! ### Byte order (20_memory.md R200, R201) -/

/-- The little-endian word of four consecutive bytes, the lowest address first (R200, R201). -/
def wordOfBytes (b0 b1 b2 b3 : Byte) : Word := b3 ++ b2 ++ b1 ++ b0

/-- The little-endian halfword of two consecutive bytes, the lowest address first (R200). -/
def halfOfBytes (b0 b1 : Byte) : BitVec 16 := b1 ++ b0

/-- Byte `k` of a word, `v[8k+7:8k]` (R200). -/
def byteOf (v : Word) (k : Nat) : Byte := v.extractLsb' (8 * k) 8

/-! ### Fields of a word (R301, R310–R317) -/

/-- `word[6:0]`. -/
def opcodeOf (w : Word) : BitVec 7 := w.extractLsb' 0 7

/-- `word[11:7]`. -/
def rdOf (w : Word) : RegIdx := w.extractLsb' 7 5

/-- `word[14:12]`. -/
def funct3Of (w : Word) : BitVec 3 := w.extractLsb' 12 3

/-- `word[19:15]`, also the zimm field (R317). -/
def rs1Of (w : Word) : RegIdx := w.extractLsb' 15 5

/-- `word[24:20]`, also the shamt field (R315). -/
def rs2Of (w : Word) : RegIdx := w.extractLsb' 20 5

/-- `word[31:25]`. -/
def funct7Of (w : Word) : BitVec 7 := w.extractLsb' 25 7

/-- `word[31:20]`: the field of imm_i (R310) and the CSR address (R316). -/
def immIOf (w : Word) : BitVec 12 := w.extractLsb' 20 12

/-- `{word[31:25], word[11:7]}`: the field of imm_s (R311). -/
def immSOf (w : Word) : BitVec 12 := w.extractLsb' 25 7 ++ w.extractLsb' 7 5

/-- `{word[31], word[7], word[30:25], word[11:8], 0b0}`: imm_b before extension (R312). -/
def immBOf (w : Word) : BitVec 13 :=
  w.extractLsb' 31 1 ++ w.extractLsb' 7 1 ++ w.extractLsb' 25 6 ++ w.extractLsb' 8 4 ++ 0#1

/-- `word[31:12]`: the field of imm_u (R313). -/
def immUOf (w : Word) : BitVec 20 := w.extractLsb' 12 20

/-- `{word[31], word[19:12], word[20], word[30:21], 0b0}`: imm_j before extension (R314). -/
def immJOf (w : Word) : BitVec 21 :=
  w.extractLsb' 31 1 ++ w.extractLsb' 12 8 ++ w.extractLsb' 20 1 ++ w.extractLsb' 21 10 ++ 0#1

/-! ### The decoder (R321): the inner tests of each major opcode, then the outer dispatch -/

/-- ROP(f7, f3) of R321 with its operands (R322). -/
def decodeOp (f7 : BitVec 7) (f3 : BitVec 3) (rd rs1 rs2 : RegIdx) : Option Instr :=
  if f7 = 0b0000000#7 then
    if f3 = 0b000#3 then some (.add rd rs1 rs2)
    else if f3 = 0b001#3 then some (.sll rd rs1 rs2)
    else if f3 = 0b010#3 then some (.slt rd rs1 rs2)
    else if f3 = 0b011#3 then some (.sltu rd rs1 rs2)
    else if f3 = 0b100#3 then some (.xor rd rs1 rs2)
    else if f3 = 0b101#3 then some (.srl rd rs1 rs2)
    else if f3 = 0b110#3 then some (.or rd rs1 rs2)
    else if f3 = 0b111#3 then some (.and rd rs1 rs2)
    else none
  else if f7 = 0b0100000#7 then
    if f3 = 0b000#3 then some (.sub rd rs1 rs2)
    else if f3 = 0b101#3 then some (.sra rd rs1 rs2)
    else none
  else none

/-- OP-IMM: the six immediate operations and the three shifts, whose `word[31:25]` must match (R323). -/
def decodeOpImm (f7 : BitVec 7) (f3 : BitVec 3) (rd rs1 : RegIdx) (imm : BitVec 12) (shamt : BitVec 5) : Option Instr :=
  if f3 = 0b000#3 then some (.addi rd rs1 imm)
  else if f3 = 0b010#3 then some (.slti rd rs1 imm)
  else if f3 = 0b011#3 then some (.sltiu rd rs1 imm)
  else if f3 = 0b100#3 then some (.xori rd rs1 imm)
  else if f3 = 0b110#3 then some (.ori rd rs1 imm)
  else if f3 = 0b111#3 then some (.andi rd rs1 imm)
  else if f3 = 0b001#3 ∧ f7 = 0b0000000#7 then some (.slli rd rs1 shamt)
  else if f3 = 0b101#3 ∧ f7 = 0b0000000#7 then some (.srli rd rs1 shamt)
  else if f3 = 0b101#3 ∧ f7 = 0b0100000#7 then some (.srai rd rs1 shamt)
  else none

/-- LOP(f3) (R324). -/
def decodeLoad (f3 : BitVec 3) (rd rs1 : RegIdx) (imm : BitVec 12) : Option Instr :=
  if f3 = 0b000#3 then some (.lb rd rs1 imm)
  else if f3 = 0b001#3 then some (.lh rd rs1 imm)
  else if f3 = 0b010#3 then some (.lw rd rs1 imm)
  else if f3 = 0b100#3 then some (.lbu rd rs1 imm)
  else if f3 = 0b101#3 then some (.lhu rd rs1 imm)
  else none

/-- SOP(f3) (R325). -/
def decodeStore (f3 : BitVec 3) (rs1 rs2 : RegIdx) (imm : BitVec 12) : Option Instr :=
  if f3 = 0b000#3 then some (.sb rs1 rs2 imm)
  else if f3 = 0b001#3 then some (.sh rs1 rs2 imm)
  else if f3 = 0b010#3 then some (.sw rs1 rs2 imm)
  else none

/-- BOP(f3) (R326). -/
def decodeBranch (f3 : BitVec 3) (rs1 rs2 : RegIdx) (offset : BitVec 13) : Option Instr :=
  if f3 = 0b000#3 then some (.beq rs1 rs2 offset)
  else if f3 = 0b001#3 then some (.bne rs1 rs2 offset)
  else if f3 = 0b100#3 then some (.blt rs1 rs2 offset)
  else if f3 = 0b101#3 then some (.bge rs1 rs2 offset)
  else if f3 = 0b110#3 then some (.bltu rs1 rs2 offset)
  else if f3 = 0b111#3 then some (.bgeu rs1 rs2 offset)
  else none

/-- SYSTEM: ECALL and EBREAK by the whole word (90_conflicts.md C9), then COP(f3); everything else is ILLEGAL (C2, R329). -/
def decodeSystem (w : Word) (f3 : BitVec 3) (rd rs1 : RegIdx) (csr : CsrAddr) : Option Instr :=
  if w = 0x00000073#32 then some .ecall
  else if w = 0x00100073#32 then some .ebreak
  else if f3 = 0b001#3 then some (.csrrw rd rs1 csr)
  else if f3 = 0b010#3 then some (.csrrs rd rs1 csr)
  else if f3 = 0b011#3 then some (.csrrc rd rs1 csr)
  else if f3 = 0b101#3 then some (.csrrwi rd rs1 csr)
  else if f3 = 0b110#3 then some (.csrrsi rd rs1 csr)
  else if f3 = 0b111#3 then some (.csrrci rd rs1 csr)
  else none

/-- MISC-MEM under the parameter FENCE_DECODE (R330). -/
def decodeMiscMem (fd : FenceDecode) (f3 : BitVec 3) (rd rs1 : RegIdx) (imm : BitVec 12) : Option Instr :=
  if fd = .nop ∧ f3 = 0b000#3 then some (.fence rd rs1 imm)
  else if fd = .nop ∧ f3 = 0b001#3 then some (.fenceI rd rs1 imm)
  else none

/-- The instruction a word stands for, by its major opcode (R320, R321); none where R321 returns ILLEGAL. -/
def decodeInstr (fd : FenceDecode) (w : Word) : Option Instr :=
  if opcodeOf w = 0b0110011#7 then decodeOp (funct7Of w) (funct3Of w) (rdOf w) (rs1Of w) (rs2Of w)
  else if opcodeOf w = 0b0010011#7 then decodeOpImm (funct7Of w) (funct3Of w) (rdOf w) (rs1Of w) (immIOf w) (rs2Of w)
  else if opcodeOf w = 0b0000011#7 then decodeLoad (funct3Of w) (rdOf w) (rs1Of w) (immIOf w)
  else if opcodeOf w = 0b0100011#7 then decodeStore (funct3Of w) (rs1Of w) (rs2Of w) (immSOf w)
  else if opcodeOf w = 0b1100011#7 then decodeBranch (funct3Of w) (rs1Of w) (rs2Of w) (immBOf w)
  else if opcodeOf w = 0b1100111#7 then
    if funct3Of w = 0b000#3 then some (.jalr (rdOf w) (rs1Of w) (immIOf w)) else none
  else if opcodeOf w = 0b1101111#7 then some (.jal (rdOf w) (immJOf w))
  else if opcodeOf w = 0b0110111#7 then some (.lui (rdOf w) (immUOf w))
  else if opcodeOf w = 0b0010111#7 then some (.auipc (rdOf w) (immUOf w))
  else if opcodeOf w = 0b1110011#7 then decodeSystem w (funct3Of w) (rdOf w) (rs1Of w) (immIOf w)
  else if opcodeOf w = 0b0001111#7 then decodeMiscMem fd (funct3Of w) (rdOf w) (rs1Of w) (immIOf w)
  else none

/-- `decode(word)` (R321): total, and an unmatched word is represented as ILLEGAL(word), never refused (R335, R339). -/
def decode (fd : FenceDecode) (w : Word) : Decoded :=
  match decodeInstr fd w with
  | some i => .instr i
  | none => .illegal w

/-- The decoder on the four bytes of an instruction as memory holds them, the lowest address first (R201). -/
def decodeBytes (fd : FenceDecode) (b0 b1 b2 b3 : Byte) : Decoded := decode fd (wordOfBytes b0 b1 b2 b3)

/-- What the decoder reads from a row of spec/opcode_table.json whose bits are `w`, every bit from `nbits` up zero. The bytes
are laid out little-endian (R201). FENCE_DECODE = Nop, the setting under which every row of the table is an instruction. -/
def decodeTableWord (nbits w : Nat) : Option Instr :=
  let v : Word := BitVec.ofNat 32 (w % 2 ^ nbits)
  match decodeBytes .nop (byteOf v 0) (byteOf v 1) (byteOf v 2) (byteOf v 3) with
  | .instr i => some i
  | .illegal _ => none

/-! ### The encoder, from the formats of R302–R308 and the values of R320–R330 -/

/-- R-format (R302). -/
def encR (f7 : BitVec 7) (rs2 rs1 : RegIdx) (f3 : BitVec 3) (rd : RegIdx) (op : BitVec 7) : Word :=
  f7 ++ rs2 ++ rs1 ++ f3 ++ rd ++ op

/-- I-format and SYSTEM format (R303, R308). -/
def encI (imm : BitVec 12) (rs1 : RegIdx) (f3 : BitVec 3) (rd : RegIdx) (op : BitVec 7) : Word :=
  imm ++ rs1 ++ f3 ++ rd ++ op

/-- S-format (R304). -/
def encS (imm : BitVec 12) (rs2 rs1 : RegIdx) (f3 : BitVec 3) (op : BitVec 7) : Word :=
  imm.extractLsb' 5 7 ++ rs2 ++ rs1 ++ f3 ++ imm.extractLsb' 0 5 ++ op

/-- B-format (R305). -/
def encB (imm : BitVec 13) (rs2 rs1 : RegIdx) (f3 : BitVec 3) (op : BitVec 7) : Word :=
  imm.extractLsb' 12 1 ++ imm.extractLsb' 5 6 ++ rs2 ++ rs1 ++ f3 ++ imm.extractLsb' 1 4 ++ imm.extractLsb' 11 1 ++ op

/-- U-format (R306). -/
def encU (imm : BitVec 20) (rd : RegIdx) (op : BitVec 7) : Word :=
  imm ++ rd ++ op

/-- J-format (R307). -/
def encJ (imm : BitVec 21) (rd : RegIdx) (op : BitVec 7) : Word :=
  imm.extractLsb' 20 1 ++ imm.extractLsb' 1 10 ++ imm.extractLsb' 11 1 ++ imm.extractLsb' 12 8 ++ rd ++ op

/-- The word of an instruction. -/
def encode : Instr → Word
  | .add rd rs1 rs2 => encR 0b0000000#7 rs2 rs1 0b000#3 rd 0b0110011#7
  | .sub rd rs1 rs2 => encR 0b0100000#7 rs2 rs1 0b000#3 rd 0b0110011#7
  | .sll rd rs1 rs2 => encR 0b0000000#7 rs2 rs1 0b001#3 rd 0b0110011#7
  | .slt rd rs1 rs2 => encR 0b0000000#7 rs2 rs1 0b010#3 rd 0b0110011#7
  | .sltu rd rs1 rs2 => encR 0b0000000#7 rs2 rs1 0b011#3 rd 0b0110011#7
  | .xor rd rs1 rs2 => encR 0b0000000#7 rs2 rs1 0b100#3 rd 0b0110011#7
  | .srl rd rs1 rs2 => encR 0b0000000#7 rs2 rs1 0b101#3 rd 0b0110011#7
  | .sra rd rs1 rs2 => encR 0b0100000#7 rs2 rs1 0b101#3 rd 0b0110011#7
  | .or rd rs1 rs2 => encR 0b0000000#7 rs2 rs1 0b110#3 rd 0b0110011#7
  | .and rd rs1 rs2 => encR 0b0000000#7 rs2 rs1 0b111#3 rd 0b0110011#7
  | .addi rd rs1 imm => encI imm rs1 0b000#3 rd 0b0010011#7
  | .slti rd rs1 imm => encI imm rs1 0b010#3 rd 0b0010011#7
  | .sltiu rd rs1 imm => encI imm rs1 0b011#3 rd 0b0010011#7
  | .xori rd rs1 imm => encI imm rs1 0b100#3 rd 0b0010011#7
  | .ori rd rs1 imm => encI imm rs1 0b110#3 rd 0b0010011#7
  | .andi rd rs1 imm => encI imm rs1 0b111#3 rd 0b0010011#7
  | .slli rd rs1 shamt => encR 0b0000000#7 shamt rs1 0b001#3 rd 0b0010011#7
  | .srli rd rs1 shamt => encR 0b0000000#7 shamt rs1 0b101#3 rd 0b0010011#7
  | .srai rd rs1 shamt => encR 0b0100000#7 shamt rs1 0b101#3 rd 0b0010011#7
  | .lb rd rs1 imm => encI imm rs1 0b000#3 rd 0b0000011#7
  | .lh rd rs1 imm => encI imm rs1 0b001#3 rd 0b0000011#7
  | .lw rd rs1 imm => encI imm rs1 0b010#3 rd 0b0000011#7
  | .lbu rd rs1 imm => encI imm rs1 0b100#3 rd 0b0000011#7
  | .lhu rd rs1 imm => encI imm rs1 0b101#3 rd 0b0000011#7
  | .sb rs1 rs2 imm => encS imm rs2 rs1 0b000#3 0b0100011#7
  | .sh rs1 rs2 imm => encS imm rs2 rs1 0b001#3 0b0100011#7
  | .sw rs1 rs2 imm => encS imm rs2 rs1 0b010#3 0b0100011#7
  | .beq rs1 rs2 offset => encB offset rs2 rs1 0b000#3 0b1100011#7
  | .bne rs1 rs2 offset => encB offset rs2 rs1 0b001#3 0b1100011#7
  | .blt rs1 rs2 offset => encB offset rs2 rs1 0b100#3 0b1100011#7
  | .bge rs1 rs2 offset => encB offset rs2 rs1 0b101#3 0b1100011#7
  | .bltu rs1 rs2 offset => encB offset rs2 rs1 0b110#3 0b1100011#7
  | .bgeu rs1 rs2 offset => encB offset rs2 rs1 0b111#3 0b1100011#7
  | .jal rd offset => encJ offset rd 0b1101111#7
  | .jalr rd rs1 imm => encI imm rs1 0b000#3 rd 0b1100111#7
  | .lui rd imm => encU imm rd 0b0110111#7
  | .auipc rd imm => encU imm rd 0b0010111#7
  | .ecall => 0x00000073#32
  | .ebreak => 0x00100073#32
  | .csrrw rd rs1 csr => encI csr rs1 0b001#3 rd 0b1110011#7
  | .csrrs rd rs1 csr => encI csr rs1 0b010#3 rd 0b1110011#7
  | .csrrc rd rs1 csr => encI csr rs1 0b011#3 rd 0b1110011#7
  | .csrrwi rd zimm csr => encI csr zimm 0b101#3 rd 0b1110011#7
  | .csrrsi rd zimm csr => encI csr zimm 0b110#3 rd 0b1110011#7
  | .csrrci rd zimm csr => encI csr zimm 0b111#3 rd 0b1110011#7
  | .fence rd rs1 fmPredSucc => encI fmPredSucc rs1 0b000#3 rd 0b0001111#7
  | .fenceI rd rs1 imm => encI imm rs1 0b001#3 rd 0b0001111#7

/-! ### spec/opcode_table.json, row for row -/

/-- The rows of OP (R322). -/
def opRows : List OpcodeRow := [
  ⟨"ADD", 0x00000033#32, 0xFE00707F#32, false⟩,
  ⟨"SUB", 0x40000033#32, 0xFE00707F#32, false⟩,
  ⟨"SLL", 0x00001033#32, 0xFE00707F#32, false⟩,
  ⟨"SLT", 0x00002033#32, 0xFE00707F#32, false⟩,
  ⟨"SLTU", 0x00003033#32, 0xFE00707F#32, false⟩,
  ⟨"XOR", 0x00004033#32, 0xFE00707F#32, false⟩,
  ⟨"SRL", 0x00005033#32, 0xFE00707F#32, false⟩,
  ⟨"SRA", 0x40005033#32, 0xFE00707F#32, false⟩,
  ⟨"OR", 0x00006033#32, 0xFE00707F#32, false⟩,
  ⟨"AND", 0x00007033#32, 0xFE00707F#32, false⟩]

/-- The rows of OP-IMM (R323). -/
def opImmRows : List OpcodeRow := [
  ⟨"ADDI", 0x00000013#32, 0x0000707F#32, false⟩,
  ⟨"SLTI", 0x00002013#32, 0x0000707F#32, false⟩,
  ⟨"SLTIU", 0x00003013#32, 0x0000707F#32, false⟩,
  ⟨"XORI", 0x00004013#32, 0x0000707F#32, false⟩,
  ⟨"ORI", 0x00006013#32, 0x0000707F#32, false⟩,
  ⟨"ANDI", 0x00007013#32, 0x0000707F#32, false⟩,
  ⟨"SLLI", 0x00001013#32, 0xFE00707F#32, false⟩,
  ⟨"SRLI", 0x00005013#32, 0xFE00707F#32, false⟩,
  ⟨"SRAI", 0x40005013#32, 0xFE00707F#32, false⟩]

/-- The rows of LOAD and STORE (R324, R325). -/
def loadStoreRows : List OpcodeRow := [
  ⟨"LB", 0x00000003#32, 0x0000707F#32, false⟩,
  ⟨"LH", 0x00001003#32, 0x0000707F#32, false⟩,
  ⟨"LW", 0x00002003#32, 0x0000707F#32, false⟩,
  ⟨"LBU", 0x00004003#32, 0x0000707F#32, false⟩,
  ⟨"LHU", 0x00005003#32, 0x0000707F#32, false⟩,
  ⟨"SB", 0x00000023#32, 0x0000707F#32, false⟩,
  ⟨"SH", 0x00001023#32, 0x0000707F#32, false⟩,
  ⟨"SW", 0x00002023#32, 0x0000707F#32, false⟩]

/-- The rows of BRANCH (R326). -/
def branchRows : List OpcodeRow := [
  ⟨"BEQ", 0x00000063#32, 0x0000707F#32, false⟩,
  ⟨"BNE", 0x00001063#32, 0x0000707F#32, false⟩,
  ⟨"BLT", 0x00004063#32, 0x0000707F#32, false⟩,
  ⟨"BGE", 0x00005063#32, 0x0000707F#32, false⟩,
  ⟨"BLTU", 0x00006063#32, 0x0000707F#32, false⟩,
  ⟨"BGEU", 0x00007063#32, 0x0000707F#32, false⟩]

/-- The rows of JAL, JALR, LUI, AUIPC (R327, R328). -/
def jumpUpperRows : List OpcodeRow := [
  ⟨"JAL", 0x0000006F#32, 0x0000007F#32, false⟩,
  ⟨"JALR", 0x00000067#32, 0x0000707F#32, false⟩,
  ⟨"LUI", 0x00000037#32, 0x0000007F#32, false⟩,
  ⟨"AUIPC", 0x00000017#32, 0x0000007F#32, false⟩]

/-- The rows of SYSTEM (R329). -/
def systemRows : List OpcodeRow := [
  ⟨"ECALL", 0x00000073#32, 0xFFFFFFFF#32, false⟩,
  ⟨"EBREAK", 0x00100073#32, 0xFFFFFFFF#32, false⟩,
  ⟨"CSRRW", 0x00001073#32, 0x0000707F#32, false⟩,
  ⟨"CSRRS", 0x00002073#32, 0x0000707F#32, false⟩,
  ⟨"CSRRC", 0x00003073#32, 0x0000707F#32, false⟩,
  ⟨"CSRRWI", 0x00005073#32, 0x0000707F#32, false⟩,
  ⟨"CSRRSI", 0x00006073#32, 0x0000707F#32, false⟩,
  ⟨"CSRRCI", 0x00007073#32, 0x0000707F#32, false⟩]

/-- The rows of MISC-MEM (R330). -/
def fenceRows : List OpcodeRow := [
  ⟨"FENCE", 0x0000000F#32, 0x0000707F#32, true⟩,
  ⟨"FENCE.I", 0x0000100F#32, 0x0000707F#32, true⟩]

/-- spec/opcode_table.json: its 47 rows, in its order. -/
def opcodeTable : List OpcodeRow :=
  opRows ++ opImmRows ++ loadStoreRows ++ branchRows ++ jumpUpperRows ++ systemRows ++ fenceRows

/-- The row's word test: `word & mask = match`, for a row that exists under the setting of FENCE_DECODE. -/
def OpcodeRow.picks (fd : FenceDecode) (row : OpcodeRow) (w : Word) : Bool :=
  (!row.onlyNop || fd == .nop) && w &&& row.mask == row.value

end Sys2Proof
end

