-- ==== Sys2Proof/Machine/State.lean ====
section
/-! DEFINITION. The state of the block (10_state.md R100, R150), its outputs (R145) and the reasons a step can stop. -/

namespace Sys2Proof.Machine

/-- Why the block is Halted (R140). -/
inductive HaltReason where
  | ecall
  | ebreak
  | limitReached
  deriving DecidableEq, Repr

/-- The cause of a trap (R140, R910). -/
inductive TrapCause where
  | misalignedFetch
  | fetchOutOfBounds
  | illegalInstruction
  deriving DecidableEq, Repr

/-- A trap with its record: "the trapping pc for every cause, and the raw word as well for IllegalInstruction" (R140). -/
inductive Trap where
  | misalignedFetch (pc : Word)
  | fetchOutOfBounds (pc : Word)
  | illegalInstruction (pc word : Word)
  deriving DecidableEq, Repr

/-- `run_state` (R140). Halted and Trapped are terminal (R901). -/
inductive RunState where
  | running
  | halted (reason : HaltReason)
  | trapped (trap : Trap)
  deriving DecidableEq, Repr

/-- The direction a warning reports (R209). -/
inductive AccessDir where
  | read
  | write
  deriving DecidableEq, Repr

/-- The width of a data access: 1, 2 or 4 bytes (R205, R211). -/
inductive Width where
  | byte
  | half
  | word
  deriving DecidableEq, Repr

/-- The output event `Warning(MemoryAccessOutOfRange, dir, addr, n)` (R209). -/
structure Warning where
  dir : AccessDir
  addr : Word
  width : Width
  deriving DecidableEq, Repr

/-- The output event `Trace(p, w)` of R900; Machine/Disasm.lean renders it as the trace line of R930. -/
structure TraceEvent where
  pc : Word
  word : Word
  deriving DecidableEq, Repr

/-- The memory array (R135): cells with strictly rising addresses, none of them holding MEM_FILL, which is what an
unlisted address below CAP reads as (R136, R217; log entry 13). -/
abbrev Memory := List Host.Cell

/-- The canonical form of memory for a fill byte and a capacity: addresses strictly rising, every cell below CAP, and no
cell equal to what an unlisted address reads as. -/
abbrev Memory.wf (fill : Byte) (cap : Nat) (m : Memory) : Prop :=
  m.Pairwise (fun x y => x.1 < y.1) ∧ ∀ c ∈ m, c.1 < cap ∧ c.2 ≠ fill

/-- The CSR store (R125): one entry for each address of CSR_IMPL. -/
abbrev CsrStore := List (CsrAddr × Word)

/-- The state of the block: R100's table, then the two output streams (log entry 4). -/
structure State where
  /-- The parameters of the run (R7). No step writes this field (log entry 1). -/
  cfg : Config
  /-- `x[0..31]` (R101); entry 0 is kept at 0 and is never read (R102). -/
  regs : Vector Word 32
  /-- The program counter (R110). -/
  pc : Word
  /-- `mem[0..CAP-1]` (R135). -/
  mem : Memory
  /-- `csr[a]` for `a` in CSR_IMPL (R125). -/
  csrs : CsrStore
  /-- `run_state` with its reason or record (R140). -/
  runState : RunState
  /-- The retired-instruction counter (R141). -/
  retired : BitVec 64
  /-- The warning output, oldest first (R145, R209). -/
  warnings : List Warning
  /-- The trace output, oldest first (R145, R930). -/
  trace : List TraceEvent
  deriving DecidableEq, Repr

/-- No step of the block stops outside its state: traps and halts are run states (R901, R917), an out-of-range access warns
(R208, R912), and a failed load has no state to step from (R1001). So no reason to fault exists (log entry 5). -/
inductive Fault where
  deriving DecidableEq, Repr

/-- Why the model has no meaning for an instruction. -/
inductive Refusal where
  /-- Raised only by an arm of `exec` for an instruction not modelled yet; no arm is (safe: the model stops). -/
  | notModelled (mnemonic : String)
  deriving DecidableEq, Repr

/-- What a meaning answers. -/
abbrev Result := Host.Outcome State Fault Refusal

/-- The state a reset builds from the parameters before the image is loaded (R1000): memory all MEM_FILL, x1..x31 POISON and
x0 zero, the CSR store at CSR_INIT, pc at ENTRY_PC, nothing retired, Running, and no output emitted. -/
def State.init (cfg : Config) : State where
  cfg := cfg
  regs := (Vector.replicate 32 Config.poison).set 0 0#32
  pc := cfg.entryPc
  mem := []
  csrs := cfg.csrInit
  runState := .running
  retired := 0#64
  warnings := []
  trace := []

/-- The block right after reset (R150, R1000) with the parameters of log entry 2 and an empty image. -/
def State.reset : State := State.init Config.atReset

end Sys2Proof.Machine
end

