-- ==== Sys2Proof/Machine/Ops.lean ====
section
/-! DEFINITION. The named operations on the state: registers, memory bytes, data accesses with their warnings, the CSR store,
and the control effects Continue, Halt and Trap of 60_exceptions.md. -/

namespace Sys2Proof.Machine

/-! ### General registers (10_state.md R101, R102) -/

/-- `x[i]`: x0 always reads as 0 (R102). -/
def State.reg (s : State) (i : RegIdx) : Word :=
  if i = 0#5 then 0#32 else s.regs[i.toNat]

/-- `x[i] <- v`: a write to x0 is discarded (R102). -/
def State.setReg (s : State) (i : RegIdx) (v : Word) : State :=
  if i = 0#5 then s else { s with regs := s.regs.set i.toNat v }

/-! ### Memory as a list of cells (R135, R136) -/

/-- CAP = 16 × ceil(MEM_REQ / 16) (20_memory.md R216). -/
def capacityOf (cfg : Config) : Nat := 16 * ((cfg.memReq + 15) / 16)

/-- The byte an address holds: the listed cell's, or MEM_FILL where no cell is listed (R136, R217). -/
def Memory.get (fill : Byte) (a : Nat) : Memory → Byte
  | [] => fill
  | (k, v) :: rest => if k = a then v else Memory.get fill a rest

/-- Memory without a cell for the address. -/
def Memory.erase (a : Nat) : Memory → Memory
  | [] => []
  | (k, v) :: rest => if k = a then Memory.erase a rest else (k, v) :: Memory.erase a rest

/-- A cell put in its place by address. -/
def Memory.insert (a : Nat) (b : Byte) : Memory → Memory
  | [] => [(a, b)]
  | (k, v) :: rest => if a < k then (a, b) :: (k, v) :: rest else (k, v) :: Memory.insert a b rest

/-- `mem[a] <- b`, keeping the canonical form: writing MEM_FILL leaves no cell. -/
def Memory.set (fill : Byte) (m : Memory) (a : Nat) (b : Byte) : Memory :=
  if b = fill then m.erase a else (m.erase a).insert a b

/-! ### Bytes of the address space (R135, R205, R206, R215) -/

/-- CAP of the run. -/
def State.capacity (s : State) : Nat := capacityOf s.cfg

/-- One byte of a read: the address is a natural number, never taken modulo 2^32 (D4), and a byte at or above CAP reads as
0x00 (R205). -/
def State.readByte (s : State) (a : Nat) : Byte :=
  if a < s.capacity then s.mem.get s.cfg.memFill a else 0#8

/-- One byte of a write: a byte at or above CAP is discarded (R206). -/
def State.writeByte (s : State) (a : Nat) (b : Byte) : State :=
  if a < s.capacity then { s with mem := s.mem.set s.cfg.memFill a b } else s

/-- Consecutive bytes, the first at `a`, each tested on its own (R206, D3); also the image load of R218. -/
def State.writeBytes (s : State) (a : Nat) : List Byte → State
  | [] => s
  | b :: bs => (s.writeByte a b).writeBytes (a + 1) bs

/-! ### MemRead, MemWrite and their warnings (R205, R206, R209) -/

/-- The number of bytes of an access (R211). -/
def Width.bytes : Width → Nat
  | .byte => 1
  | .half => 2
  | .word => 4

/-- Whether any byte `a .. a+n-1` of an access is out of range; the last is the highest. -/
def State.outOfRange (s : State) (a : Word) (w : Width) : Bool :=
  decide (s.capacity < a.toNat + w.bytes)

/-- `if oob: emit Warning(MemoryAccessOutOfRange, dir, addr, n)`: one event an access (R209, D5). -/
def State.warnIfOut (s : State) (dir : AccessDir) (a : Word) (w : Width) : State :=
  if s.outOfRange a w then { s with warnings := s.warnings ++ [⟨dir, a, w⟩] } else s

/-- The value of `MemRead(addr, 1)` (R205). -/
def State.memRead8 (s : State) (a : Word) : BitVec 8 := s.readByte a.toNat

/-- The value of `MemRead(addr, 2)` (R200, R205). -/
def State.memRead16 (s : State) (a : Word) : BitVec 16 :=
  halfOfBytes (s.readByte a.toNat) (s.readByte (a.toNat + 1))

/-- The value of `MemRead(addr, 4)` (R200, R205). -/
def State.memRead32 (s : State) (a : Word) : Word :=
  wordOfBytes (s.readByte a.toNat) (s.readByte (a.toNat + 1)) (s.readByte (a.toNat + 2)) (s.readByte (a.toNat + 3))

/-- The low `n` bytes of a value, byte 0 first (R200, R206). -/
def lowBytes (v : Word) : Width → List Byte
  | .byte => [byteOf v 0]
  | .half => [byteOf v 0, byteOf v 1]
  | .word => [byteOf v 0, byteOf v 1, byteOf v 2, byteOf v 3]

/-- `MemWrite(addr, n, v)`: the in-range bytes are stored, then one warning if any byte was out of range (R206). -/
def State.memWrite (s : State) (a : Word) (w : Width) (v : Word) : State :=
  (s.writeBytes a.toNat (lowBytes v w)).warnIfOut .write a w

/-! ### The CSR store (R125) -/

/-- The entry at an address; none exactly when the address is not in CSR_IMPL. -/
def CsrStore.get? (a : CsrAddr) : CsrStore → Option Word
  | [] => none
  | (k, v) :: rest => if k = a then some v else CsrStore.get? a rest

/-- `csr[a] <- v` at an address of CSR_IMPL; the set of addresses never changes (log entry 21). -/
def CsrStore.put (a : CsrAddr) (v : Word) : CsrStore → CsrStore
  | [] => []
  | (k, old) :: rest => (k, if k = a then v else old) :: CsrStore.put a v rest

/-- `csr[a]`, for `a ∈ CSR_IMPL`. -/
def State.csr? (s : State) (a : CsrAddr) : Option Word := s.csrs.get? a

/-- `csr[a] <- v`. -/
def State.setCsr (s : State) (a : CsrAddr) (v : Word) : State := { s with csrs := s.csrs.put a v }

/-! ### Control effects and what the step does with them (60_exceptions.md) -/

/-- `continue(npc)`: `pc <- npc` (R112, R907). -/
def State.continueTo (s : State) (npc : Word) : State := { s with pc := npc }

/-- `halt(reason)`: pc stays at the halting instruction (R908). -/
def State.haltWith (s : State) (r : HaltReason) : State := { s with runState := .halted r }

/-- TAKING A TRAP, the one operation for all three causes. The block records the cause, the pc and, for IllegalInstruction,
the word in `run_state` and changes nothing else: "A trap saves nothing and transfers control nowhere", and pc and retired
stay (R902, R903, R909, R917). There is no return from a trap (R918), so none stands beside it. -/
def State.takeTrap (s : State) (t : Trap) : State := { s with runState := .trapped t }

/-- Whether a Continue that brings the counter to `n` reaches the execution limit (R900, R907, D10). -/
def limitReached (limit n : BitVec 64) : Bool := limit != 0#64 && decide (limit ≤ n)

/-- What the step does after an instruction's Continue or Halt effect: `retired` goes up by one modulo 2^64 (R141), and
after a Continue the execution limit is tested (R907); a Halt keeps its own reason (R908, R916). -/
def State.retire (s : State) : State :=
  { s with
    retired := s.retired + 1#64
    runState :=
      if s.runState = .running ∧ limitReached s.cfg.execLimit (s.retired + 1#64) then .halted .limitReached
      else s.runState }

/-! ### Shared shapes of a meaning -/

/-- `x[rd] <- v` ; `pc <- pc + 4` (R400, R501, R700). -/
def writeRegNext (s : State) (rd : RegIdx) (v : Word) : Result :=
  .next ((s.setReg rd v).continueTo (s.pc + 4#32))

/-- `x[rd] <- pc + 4` ; `pc <- target` (R620, R621). -/
def linkAndJump (s : State) (rd : RegIdx) (target : Word) : Result :=
  .next ((s.setReg rd (s.pc + 4#32)).continueTo target)

/-- The CSR frame (R820, R821): read, modify, write, then `x[rd] <- old`; at an address outside CSR_IMPL only pc moves. -/
def csrReadModifyWrite (s : State) (rd : RegIdx) (a : CsrAddr) (src : Word) (f : Word → Word → Word) : Result :=
  match s.csr? a with
  | some old => .next (((s.setCsr a (f old src)).setReg rd old).continueTo (s.pc + 4#32))
  | none => .next (s.continueTo (s.pc + 4#32))

end Sys2Proof.Machine
end

