-- ==== Sys2Proof/Machine/Operands.lean ====
section
/-! DEFINITION. Every operand form: immediates extended to 32 bits, shift amounts, effective addresses and targets. -/

namespace Sys2Proof.Machine

/-- `imm_i = sext_12(word[31:20])` (30_encoding.md R310). -/
def immI (field : BitVec 12) : Word := field.signExtend 32

/-- `imm_s = sext_12({word[31:25], word[11:7]})` (R311). -/
def immS (field : BitVec 12) : Word := field.signExtend 32

/-- `imm_b`, sign-extended from bit 12 (R312). -/
def immB (field : BitVec 13) : Word := field.signExtend 32

/-- `imm_u = {word[31:12], 0x000}`, never sign-extended (R313). -/
def immU (field : BitVec 20) : Word := field ++ 0x000#12

/-- `imm_j`, sign-extended from bit 20 (R314). -/
def immJ (field : BitVec 21) : Word := field.signExtend 32

/-- `zimm = zext_5(word[19:15])` (R317). -/
def zimmWord (field : BitVec 5) : Word := field.setWidth 32

/-- The amount of a register shift: `x[rs2][4:0]`, bits 31:5 ignored (R315, R402). -/
def shiftAmount (v : Word) : Nat := (v.extractLsb' 0 5).toNat

/-- The effective address of a load, `x[rs1] + imm_i`, a Word addition (41_loads_stores.md R500). -/
def loadAddr (s : State) (rs1 : RegIdx) (imm : BitVec 12) : Word := s.reg rs1 + immI imm

/-- The effective address of a store, `x[rs1] + imm_s`, a Word addition (R500). -/
def storeAddr (s : State) (rs1 : RegIdx) (imm : BitVec 12) : Word := s.reg rs1 + immS imm

/-- The target of JALR: bit 0 of the sum forced to 0 (42_control_transfer.md R621). -/
def jalrTarget (s : State) (rs1 : RegIdx) (imm : BitVec 12) : Word := (s.reg rs1 + immI imm) &&& 0xFFFFFFFE#32

end Sys2Proof.Machine
end

