-- ==== Sys2Proof/Machine/Flags.lean ====
section
/-! DEFINITION. The block has no flags, condition codes or predicate registers (10_state.md R120). What takes their place are
the comparisons: an instruction writes `bool(c)` to rd or decides a branch directly. -/

namespace Sys2Proof.Machine

/-- `a <s b` (00_scope.md R10). -/
def lessSigned (a b : Word) : Bool := a.slt b

/-- `a <u b` (R10). -/
def lessUnsigned (a b : Word) : Bool := a.ult b

/-- `bool(c)`: the Word 1 when `c` holds and the Word 0 otherwise (R10). -/
def boolWord (c : Bool) : Word := if c then 1#32 else 0#32

/-- A conditional branch: `pc + imm_b` if taken, else `pc + 4` (42_control_transfer.md R600). -/
def branchIf (s : State) (taken : Bool) (offset : BitVec 13) : Result :=
  .next (s.continueTo (if taken then s.pc + immB offset else s.pc + 4#32))

end Sys2Proof.Machine
end

