-- ==== Sys2Proof/Machine/Alu.lean ====
section
/-! DEFINITION. The ten register-register instructions (40_integer_alu.md R400, R410–R419). -/

namespace Sys2Proof.Machine

/-- ADD: add modulo 2^32, overflow not trapped (R402, R410). -/
def execAdd (rd rs1 rs2 : RegIdx) (s : State) : Result :=
  writeRegNext s rd (s.reg rs1 + s.reg rs2)

/-- SUB: subtract modulo 2^32 (R402, R411). -/
def execSub (rd rs1 rs2 : RegIdx) (s : State) : Result :=
  writeRegNext s rd (s.reg rs1 - s.reg rs2)

/-- SLL: shift left by `x[rs2][4:0]` (R412). -/
def execSll (rd rs1 rs2 : RegIdx) (s : State) : Result :=
  writeRegNext s rd (s.reg rs1 <<< shiftAmount (s.reg rs2))

/-- SLT: set if less than, signed (R413). -/
def execSlt (rd rs1 rs2 : RegIdx) (s : State) : Result :=
  writeRegNext s rd (boolWord (lessSigned (s.reg rs1) (s.reg rs2)))

/-- SLTU: set if less than, unsigned (R414). -/
def execSltu (rd rs1 rs2 : RegIdx) (s : State) : Result :=
  writeRegNext s rd (boolWord (lessUnsigned (s.reg rs1) (s.reg rs2)))

/-- XOR (R415). -/
def execXor (rd rs1 rs2 : RegIdx) (s : State) : Result :=
  writeRegNext s rd (s.reg rs1 ^^^ s.reg rs2)

/-- SRL: shift right by `x[rs2][4:0]`, zero fill (R416). -/
def execSrl (rd rs1 rs2 : RegIdx) (s : State) : Result :=
  writeRegNext s rd (s.reg rs1 >>> shiftAmount (s.reg rs2))

/-- SRA: shift right by `x[rs2][4:0]`, sign fill (R417). -/
def execSra (rd rs1 rs2 : RegIdx) (s : State) : Result :=
  writeRegNext s rd ((s.reg rs1).sshiftRight (shiftAmount (s.reg rs2)))

/-- OR (R418). -/
def execOr (rd rs1 rs2 : RegIdx) (s : State) : Result :=
  writeRegNext s rd (s.reg rs1 ||| s.reg rs2)

/-- AND (R419). -/
def execAnd (rd rs1 rs2 : RegIdx) (s : State) : Result :=
  writeRegNext s rd (s.reg rs1 &&& s.reg rs2)

end Sys2Proof.Machine
end

