-- ==== Sys2Proof/Machine/AluImm.lean ====
section
/-! DEFINITION. The nine register-immediate instructions (40_integer_alu.md R400, R430–R438). -/

namespace Sys2Proof.Machine

/-- ADDI: add the sign-extended immediate modulo 2^32 (R430). -/
def execAddi (rd rs1 : RegIdx) (imm : BitVec 12) (s : State) : Result :=
  writeRegNext s rd (s.reg rs1 + immI imm)

/-- SLTI: set if less than the immediate, signed (R431). -/
def execSlti (rd rs1 : RegIdx) (imm : BitVec 12) (s : State) : Result :=
  writeRegNext s rd (boolWord (lessSigned (s.reg rs1) (immI imm)))

/-- SLTIU: the immediate is sign-extended first and then compared as unsigned (R432). -/
def execSltiu (rd rs1 : RegIdx) (imm : BitVec 12) (s : State) : Result :=
  writeRegNext s rd (boolWord (lessUnsigned (s.reg rs1) (immI imm)))

/-- XORI (R433). -/
def execXori (rd rs1 : RegIdx) (imm : BitVec 12) (s : State) : Result :=
  writeRegNext s rd (s.reg rs1 ^^^ immI imm)

/-- ORI (R434). -/
def execOri (rd rs1 : RegIdx) (imm : BitVec 12) (s : State) : Result :=
  writeRegNext s rd (s.reg rs1 ||| immI imm)

/-- ANDI (R435). -/
def execAndi (rd rs1 : RegIdx) (imm : BitVec 12) (s : State) : Result :=
  writeRegNext s rd (s.reg rs1 &&& immI imm)

/-- SLLI: shift left by shamt (R436). -/
def execSlli (rd rs1 : RegIdx) (shamt : BitVec 5) (s : State) : Result :=
  writeRegNext s rd (s.reg rs1 <<< shamt.toNat)

/-- SRLI: shift right by shamt, zero fill (R437). -/
def execSrli (rd rs1 : RegIdx) (shamt : BitVec 5) (s : State) : Result :=
  writeRegNext s rd (s.reg rs1 >>> shamt.toNat)

/-- SRAI: shift right by shamt, sign fill (R438). -/
def execSrai (rd rs1 : RegIdx) (shamt : BitVec 5) (s : State) : Result :=
  writeRegNext s rd ((s.reg rs1).sshiftRight shamt.toNat)

end Sys2Proof.Machine
end

