-- ==== Sys2Proof/Machine/Branch.lean ====
section
/-! DEFINITION. The six conditional branches (42_control_transfer.md R600–R602, R610–R615). No target is checked (R601). -/

namespace Sys2Proof.Machine

/-- BEQ: taken if the operands are equal (R610). -/
def execBeq (rs1 rs2 : RegIdx) (offset : BitVec 13) (s : State) : Result :=
  branchIf s (s.reg rs1 == s.reg rs2) offset

/-- BNE: taken if the operands differ (R611). -/
def execBne (rs1 rs2 : RegIdx) (offset : BitVec 13) (s : State) : Result :=
  branchIf s (s.reg rs1 != s.reg rs2) offset

/-- BLT: taken if less than, signed (R612). -/
def execBlt (rs1 rs2 : RegIdx) (offset : BitVec 13) (s : State) : Result :=
  branchIf s (lessSigned (s.reg rs1) (s.reg rs2)) offset

/-- BGE: taken if not less than, signed (R613). -/
def execBge (rs1 rs2 : RegIdx) (offset : BitVec 13) (s : State) : Result :=
  branchIf s (!lessSigned (s.reg rs1) (s.reg rs2)) offset

/-- BLTU: taken if less than, unsigned (R614). -/
def execBltu (rs1 rs2 : RegIdx) (offset : BitVec 13) (s : State) : Result :=
  branchIf s (lessUnsigned (s.reg rs1) (s.reg rs2)) offset

/-- BGEU: taken if not less than, unsigned (R615). -/
def execBgeu (rs1 rs2 : RegIdx) (offset : BitVec 13) (s : State) : Result :=
  branchIf s (!lessUnsigned (s.reg rs1) (s.reg rs2)) offset

end Sys2Proof.Machine
end

