-- ==== Sys2Proof/Machine/Fence.lean ====
section
/-! DEFINITION. FENCE and FENCE.I, decoded only under FENCE_DECODE = Nop (44_system.md R830, R831). Memory is sequential and fetch
coherent (20_memory.md R225, R226, R228), so there is nothing to order: only pc advances, and every field is ignored. -/

namespace Sys2Proof.Machine

/-- FENCE: `pc <- pc + 4` (R830). -/
def execFence (_rd _rs1 : RegIdx) (_fmPredSucc : BitVec 12) (s : State) : Result :=
  .next (s.continueTo (s.pc + 4#32))

/-- FENCE.I: `pc <- pc + 4` (R831). -/
def execFenceI (_rd _rs1 : RegIdx) (_imm : BitVec 12) (s : State) : Result :=
  .next (s.continueTo (s.pc + 4#32))

end Sys2Proof.Machine
end

