-- ==== Sys2Proof/Machine/Jump.lean ====
section
/-! DEFINITION. JAL and JALR (42_control_transfer.md R601, R602, R620, R621). No target is checked; the link is written in any case. -/

namespace Sys2Proof.Machine

/-- JAL: `x[rd] <- pc + 4` ; `pc <- pc + imm_j` (R620). -/
def execJal (rd : RegIdx) (offset : BitVec 21) (s : State) : Result :=
  linkAndJump s rd (s.pc + immJ offset)

/-- JALR: the target comes from the old `x[rs1]`, only its bit 0 is cleared, and `x[rd] <- pc + 4` (R621). -/
def execJalr (rd rs1 : RegIdx) (imm : BitVec 12) (s : State) : Result :=
  linkAndJump s rd (jalrTarget s rs1 imm)

end Sys2Proof.Machine
end

