-- ==== Sys2Proof/Machine/Load.lean ====
section
/-! DEFINITION. The five loads (41_loads_stores.md R500, R501, R510–R514): the read, its warning if any byte is out of
range (also when rd = 0), then the register write with the address taken from the old `x[rs1]`. -/

namespace Sys2Proof.Machine

/-- LB: `x[rd] <- sext_8(MemRead(ea, 1))` (R510). -/
def execLb (rd rs1 : RegIdx) (imm : BitVec 12) (s : State) : Result :=
  writeRegNext (s.warnIfOut .read (loadAddr s rs1 imm) .byte) rd ((s.memRead8 (loadAddr s rs1 imm)).signExtend 32)

/-- LH: `x[rd] <- sext_16(MemRead(ea, 2))` (R511). -/
def execLh (rd rs1 : RegIdx) (imm : BitVec 12) (s : State) : Result :=
  writeRegNext (s.warnIfOut .read (loadAddr s rs1 imm) .half) rd ((s.memRead16 (loadAddr s rs1 imm)).signExtend 32)

/-- LW: `x[rd] <- MemRead(ea, 4)` (R512). -/
def execLw (rd rs1 : RegIdx) (imm : BitVec 12) (s : State) : Result :=
  writeRegNext (s.warnIfOut .read (loadAddr s rs1 imm) .word) rd (s.memRead32 (loadAddr s rs1 imm))

/-- LBU: `x[rd] <- zext_8(MemRead(ea, 1))` (R513). -/
def execLbu (rd rs1 : RegIdx) (imm : BitVec 12) (s : State) : Result :=
  writeRegNext (s.warnIfOut .read (loadAddr s rs1 imm) .byte) rd ((s.memRead8 (loadAddr s rs1 imm)).setWidth 32)

/-- LHU: `x[rd] <- zext_16(MemRead(ea, 2))` (R514). -/
def execLhu (rd rs1 : RegIdx) (imm : BitVec 12) (s : State) : Result :=
  writeRegNext (s.warnIfOut .read (loadAddr s rs1 imm) .half) rd ((s.memRead16 (loadAddr s rs1 imm)).setWidth 32)

end Sys2Proof.Machine
end

