-- ==== Sys2Proof/Machine/Store.lean ====
section
/-! DEFINITION. The three stores (41_loads_stores.md R500, R502, R520–R522): no register is written. -/

namespace Sys2Proof.Machine

/-- SB: `MemWrite(ea, 1, x[rs2])` (R520). -/
def execSb (rs1 rs2 : RegIdx) (imm : BitVec 12) (s : State) : Result :=
  .next ((s.memWrite (storeAddr s rs1 imm) .byte (s.reg rs2)).continueTo (s.pc + 4#32))

/-- SH: `MemWrite(ea, 2, x[rs2])` (R521). -/
def execSh (rs1 rs2 : RegIdx) (imm : BitVec 12) (s : State) : Result :=
  .next ((s.memWrite (storeAddr s rs1 imm) .half (s.reg rs2)).continueTo (s.pc + 4#32))

/-- SW: `MemWrite(ea, 4, x[rs2])` (R522). -/
def execSw (rs1 rs2 : RegIdx) (imm : BitVec 12) (s : State) : Result :=
  .next ((s.memWrite (storeAddr s rs1 imm) .word (s.reg rs2)).continueTo (s.pc + 4#32))

end Sys2Proof.Machine
end

