-- ==== Sys2Proof/Machine/System.lean ====
section
/-! DEFINITION. ECALL, EBREAK and the six CSR instructions (44_system.md R800–R828). There is one mode and no privilege check (R920). -/

namespace Sys2Proof.Machine

/-- ECALL: `halt(Ecall)`; no register, memory or CSR is written (R800, R810). -/
def execEcall (s : State) : Result :=
  .next (s.haltWith .ecall)

/-- EBREAK: `halt(Ebreak)` (R800, R811). -/
def execEbreak (s : State) : Result :=
  .next (s.haltWith .ebreak)

/-- CSRRW: write (R822). -/
def execCsrrw (rd rs1 : RegIdx) (csr : CsrAddr) (s : State) : Result :=
  csrReadModifyWrite s rd csr (s.reg rs1) (fun _ src => src)

/-- CSRRS: set bits (R823). -/
def execCsrrs (rd rs1 : RegIdx) (csr : CsrAddr) (s : State) : Result :=
  csrReadModifyWrite s rd csr (s.reg rs1) (fun old src => old ||| src)

/-- CSRRC: clear bits (R824). -/
def execCsrrc (rd rs1 : RegIdx) (csr : CsrAddr) (s : State) : Result :=
  csrReadModifyWrite s rd csr (s.reg rs1) (fun old src => old &&& ~~~src)

/-- CSRRWI: write the zero-extended zimm (R825). -/
def execCsrrwi (rd : RegIdx) (zimm : BitVec 5) (csr : CsrAddr) (s : State) : Result :=
  csrReadModifyWrite s rd csr (zimmWord zimm) (fun _ src => src)

/-- CSRRSI: set the bits of zimm (R826). -/
def execCsrrsi (rd : RegIdx) (zimm : BitVec 5) (csr : CsrAddr) (s : State) : Result :=
  csrReadModifyWrite s rd csr (zimmWord zimm) (fun old src => old ||| src)

/-- CSRRCI: clear the bits of zimm (R827). -/
def execCsrrci (rd : RegIdx) (zimm : BitVec 5) (csr : CsrAddr) (s : State) : Result :=
  csrReadModifyWrite s rd csr (zimmWord zimm) (fun old src => old &&& ~~~src)

end Sys2Proof.Machine
end

