-- ==== Sys2Proof/Machine/Upper.lean ====
section
/-! DEFINITION. LUI and AUIPC (43_upper_immediate.md R700, R710, R711). -/

namespace Sys2Proof.Machine

/-- LUI: `x[rd] <- imm_u` (R710). -/
def execLui (rd : RegIdx) (imm : BitVec 20) (s : State) : Result :=
  writeRegNext s rd (immU imm)

/-- AUIPC: `x[rd] <- pc + imm_u`, pc being the AUIPC's own address (R111, R711). -/
def execAuipc (rd : RegIdx) (imm : BitVec 20) (s : State) : Result :=
  writeRegNext s rd (s.pc + immU imm)

end Sys2Proof.Machine
end

