-- ==== Sys2Proof/Machine/Fetch.lean ====
section
/-! DEFINITION. The parts of a step around `exec` (60_exceptions.md R900–R909): the fetch checks, the fetch, the trace event,
and what the step does with a decoded word. -/

namespace Sys2Proof.Machine

/-- The two fetch checks in the order of R916: a pc that is no multiple of 4, then `pc + 3 ≥ CAP` in natural numbers (R902,
R903, D24). -/
def State.fetchTrap (s : State) : Option Trap :=
  if s.pc.toNat % 4 ≠ 0 then some (.misalignedFetch s.pc)
  else if s.capacity ≤ s.pc.toNat + 3 then some (.fetchOutOfBounds s.pc)
  else none

/-- `w <- MemRead(pc, 4)` (R904). -/
def State.fetchWord (s : State) : Word := s.memRead32 s.pc

/-- `if TRACE_EN: emit Trace(p, w)`, before the instruction executes (R900, R930, D26). -/
def State.emitTrace (s : State) (w : Word) : State :=
  if s.cfg.traceEn then { s with trace := s.trace ++ [⟨s.pc, w⟩] } else s

/-- What follows an instruction's effect: the counter and the execution limit (R907, R908). -/
def retireResult : Result → Result
  | .next t => .next t.retire
  | .fault f => .fault f
  | .refused r => .refused r

/-- Decode a fetched word and execute it; ILLEGAL(w) traps with the pc and the word (R905, R906, R909, R840). -/
def decodeAndExecute (s : State) (w : Word) : Result :=
  match decode s.cfg.fenceDecode w with
  | .instr i => retireResult (exec i s)
  | .illegal word => .next (s.takeTrap (.illegalInstruction s.pc word))

/-- One step of a Running block (R900). -/
def runningStep (s : State) : Result :=
  match s.fetchTrap with
  | some t => .next (s.takeTrap t)
  | none => decodeAndExecute (s.emitTrace s.fetchWord) s.fetchWord

/-- The bytes of an instruction placed at the pc, where the next step fetches them: the image load of R218 for one word
(log entry 3). -/
def placeAtPc (s : State) (w : Word) : State := s.writeBytes s.pc.toNat (lowBytes w .word)

end Sys2Proof.Machine
end

