-- ==== Sys2Proof/Machine/Step.lean ====
section
/-! DEFINITION. The step of the block (60_exceptions.md R900, R901). -/

namespace Sys2Proof.Machine

/-- One step request. In a terminal state it "is ignored and changes no state" (R901, D28; log entry 6). -/
def step (s : State) : Host.Outcome State Fault Refusal :=
  match s.runState with
  | .running => runningStep s
  | .halted _ => .next s
  | .trapped _ => .next s

/-- The state with the instruction whose bits are `w`, zero from bit `nbits` up, stored where `step` fetches next. From
`State.reset` nothing else is needed: the block is Running with pc = ENTRY_PC = 0 (log entry 3). -/
def State.withFetchWord (s : State) (nbits w : Nat) : State := placeAtPc s (BitVec.ofNat 32 (w % 2 ^ nbits))

end Sys2Proof.Machine
end

