-- ==== Sys2Proof/Machine/HostPorts.lean ====
section
/-! DEFINITION. The status outputs of the block (70_reset_and_hazards.md R1003) with the codes of 60_exceptions.md R910, which
the spec marks as its own choice (D16). Reading a port changes no state (R1004). -/

namespace Sys2Proof.Machine

/-- The `run_state` code: Running 0, Halted 1, Trapped 2 (R910). -/
def runStateCode : RunState → Nat
  | .running => 0
  | .halted _ => 1
  | .trapped _ => 2

/-- The `halt_reason` code: Ecall 0, Ebreak 1, LimitReached 2 (R910). -/
def haltReasonCode : HaltReason → Nat
  | .ecall => 0
  | .ebreak => 1
  | .limitReached => 2

/-- The `trap_cause` code: MisalignedFetch 0, FetchOutOfBounds 1, IllegalInstruction 2 (R910). -/
def trapCauseCode : TrapCause → Nat
  | .misalignedFetch => 0
  | .fetchOutOfBounds => 1
  | .illegalInstruction => 2

/-- The cause of a trap (R140). -/
def Trap.cause : Trap → TrapCause
  | .misalignedFetch _ => .misalignedFetch
  | .fetchOutOfBounds _ => .fetchOutOfBounds
  | .illegalInstruction _ _ => .illegalInstruction

/-- The trapping pc, recorded for every cause (R140). -/
def Trap.pc : Trap → Word
  | .misalignedFetch p => p
  | .fetchOutOfBounds p => p
  | .illegalInstruction p _ => p

/-- The raw word, recorded for IllegalInstruction only (R140). -/
def Trap.word? : Trap → Option Word
  | .misalignedFetch _ => none
  | .fetchOutOfBounds _ => none
  | .illegalInstruction _ w => some w

/-- The status outputs (R1003). DESIGN CHOICE (log entry 26): a port whose value has no meaning in a run state is `none` there,
because the spec gives it no value. -/
structure StatusPorts where
  runState : Nat
  haltReason : Option Nat
  trapCause : Option Nat
  trapPc : Option Word
  trapWord : Option Word
  deriving DecidableEq, Repr

/-- The status outputs of a state (R1003). The other outputs are fields of State: pc, mem, csrs, retired, warnings, trace,
and `x[i]` through `State.reg`. -/
def State.statusPorts (s : State) : StatusPorts :=
  match s.runState with
  | .running => ⟨runStateCode s.runState, none, none, none, none⟩
  | .halted r => ⟨runStateCode s.runState, some (haltReasonCode r), none, none, none⟩
  | .trapped t => ⟨runStateCode s.runState, none, some (trapCauseCode t.cause), some t.pc, t.word?⟩

/-- The source's "halted flag": the predicate `run_state ≠ Running` (R140, 90_conflicts.md C8). -/
def State.haltedFlag (s : State) : Bool := s.runState != .running

end Sys2Proof.Machine
end

