-- ==== Sys2Proof/Machine/Pseudo.lean ====
section
/-! DEFINITION. Register names and pseudo-instructions (10_state.md R107, 30_encoding.md R347): spellings an assembler expands.
The spec marks both as general knowledge and the hardware gives them no meaning of their own (log entry 22). -/

namespace Sys2Proof.Machine

/-- The standard ABI names and the registers they spell (R107). -/
def abiNames : List (String × RegIdx) :=
  [("zero", 0), ("ra", 1), ("sp", 2), ("gp", 3), ("tp", 4), ("t0", 5), ("t1", 6), ("t2", 7), ("s0", 8), ("fp", 8), ("s1", 9),
   ("a0", 10), ("a1", 11), ("a2", 12), ("a3", 13), ("a4", 14), ("a5", 15), ("a6", 16), ("a7", 17)] ++
  [("s2", 18), ("s3", 19), ("s4", 20), ("s5", 21), ("s6", 22), ("s7", 23), ("s8", 24), ("s9", 25), ("s10", 26), ("s11", 27),
   ("t3", 28), ("t4", 29), ("t5", 30), ("t6", 31)]

/-- The pseudo-instructions of R347's table. Offsets are those of the instruction they expand to; `la` takes `sym - pc`. -/
inductive Pseudo where
  | nop
  | li (rd : RegIdx) (imm : Word)
  | mv (rd rs : RegIdx)
  | not (rd rs : RegIdx)
  | neg (rd rs : RegIdx)
  | seqz (rd rs : RegIdx)
  | snez (rd rs : RegIdx)
  | sltz (rd rs : RegIdx)
  | sgtz (rd rs : RegIdx)
  | beqz (rs : RegIdx) (off : BitVec 13)
  | bnez (rs : RegIdx) (off : BitVec 13)
  | blez (rs : RegIdx) (off : BitVec 13)
  | bgez (rs : RegIdx) (off : BitVec 13)
  | bltz (rs : RegIdx) (off : BitVec 13)
  | bgtz (rs : RegIdx) (off : BitVec 13)
  | bgt (rs rt : RegIdx) (off : BitVec 13)
  | ble (rs rt : RegIdx) (off : BitVec 13)
  | bgtu (rs rt : RegIdx) (off : BitVec 13)
  | bleu (rs rt : RegIdx) (off : BitVec 13)
  | j (off : BitVec 21)
  | jalRa (off : BitVec 21)
  | jr (rs : RegIdx)
  | jalrRa (rs : RegIdx)
  | ret
  | call (off : Word)
  | tail (off : Word)
  | la (rd : RegIdx) (symMinusPc : Word)
  | csrr (rd : RegIdx) (csr : CsrAddr)
  | csrw (csr : CsrAddr) (rs : RegIdx)
  | csrs (csr : CsrAddr) (rs : RegIdx)
  | csrc (csr : CsrAddr) (rs : RegIdx)
  | csrwi (csr : CsrAddr) (z : BitVec 5)
  | csrsi (csr : CsrAddr) (z : BitVec 5)
  | csrci (csr : CsrAddr) (z : BitVec 5)
  | rdcycle (rd : RegIdx)
  | rdtime (rd : RegIdx)
  | rdinstret (rd : RegIdx)
  | unimp
  | fence
  deriving DecidableEq, Repr

/-- `hi = (v + 0x800) >> 12`, the low 20 bits (R347). -/
def hiPart (v : Word) : BitVec 20 := ((v + 0x800#32) >>> 12).setWidth 20

/-- `lo = v - (hi << 12)`, a 12-bit signed value (R347). -/
def loPart (v : Word) : BitVec 12 := (v - immU (hiPart v)).setWidth 12

/-- `li rd, imm`: one ADDI in [-2048, 2047], else LUI and, unless lo = 0, ADDI (R347). -/
def expandLi (rd : RegIdx) (imm : Word) : List Instr :=
  if -2048 ≤ imm.toInt ∧ imm.toInt ≤ 2047 then [.addi rd 0#5 (imm.setWidth 12)]
  else if loPart imm = 0#12 then [.lui rd (hiPart imm)]
  else [.lui rd (hiPart imm), .addi rd rd (loPart imm)]

/-- The expansion of a pseudo-instruction (R347). -/
def Pseudo.expand : Pseudo → List Instr
  | .nop => [.addi 0#5 0#5 0#12]
  | .li rd imm => expandLi rd imm
  | .mv rd rs => [.addi rd rs 0#12]
  | .not rd rs => [.xori rd rs 0xFFF#12]
  | .neg rd rs => [.sub rd 0#5 rs]
  | .seqz rd rs => [.sltiu rd rs 1#12]
  | .snez rd rs => [.sltu rd 0#5 rs]
  | .sltz rd rs => [.slt rd rs 0#5]
  | .sgtz rd rs => [.slt rd 0#5 rs]
  | .beqz rs off => [.beq rs 0#5 off]
  | .bnez rs off => [.bne rs 0#5 off]
  | .blez rs off => [.bge 0#5 rs off]
  | .bgez rs off => [.bge rs 0#5 off]
  | .bltz rs off => [.blt rs 0#5 off]
  | .bgtz rs off => [.blt 0#5 rs off]
  | .bgt rs rt off => [.blt rt rs off]
  | .ble rs rt off => [.bge rt rs off]
  | .bgtu rs rt off => [.bltu rt rs off]
  | .bleu rs rt off => [.bgeu rt rs off]
  | .j off => [.jal 0#5 off]
  | .jalRa off => [.jal 1#5 off]
  | .jr rs => [.jalr 0#5 rs 0#12]
  | .jalrRa rs => [.jalr 1#5 rs 0#12]
  | .ret => [.jalr 0#5 1#5 0#12]
  | .call off => [.auipc 1#5 (hiPart off), .jalr 1#5 1#5 (loPart off)]
  | .tail off => [.auipc 6#5 (hiPart off), .jalr 0#5 6#5 (loPart off)]
  | .la rd symMinusPc => [.auipc rd (hiPart symMinusPc), .addi rd rd (loPart symMinusPc)]
  | .csrr rd csr => [.csrrs rd 0#5 csr]
  | .csrw csr rs => [.csrrw 0#5 rs csr]
  | .csrs csr rs => [.csrrs 0#5 rs csr]
  | .csrc csr rs => [.csrrc 0#5 rs csr]
  | .csrwi csr z => [.csrrwi 0#5 z csr]
  | .csrsi csr z => [.csrrsi 0#5 z csr]
  | .csrci csr z => [.csrrci 0#5 z csr]
  | .rdcycle rd => [.csrrs rd 0#5 0xC00#12]
  | .rdtime rd => [.csrrs rd 0#5 0xC01#12]
  | .rdinstret rd => [.csrrs rd 0#5 0xC02#12]
  | .unimp => [.csrrw 0#5 0#5 0xC00#12]
  | .fence => [.fence 0#5 0#5 0x0FF#12]

end Sys2Proof.Machine
end

