-- ==== Sys2Proof/Machine/Reset.lean ====
section
/-! DEFINITION. Reset and the load of the program image (70_reset_and_hazards.md R1000, R1001; 20_memory.md R218, R219). -/

namespace Sys2Proof.Machine

/-- What the loader hands the block (R1003, port `image`): the image's bytes, or its FileUnreadable indicator. -/
inductive ImageSource where
  | bytes (img : List Byte)
  | unreadable
  deriving DecidableEq, Repr

/-- Why a reset failed (R219, R1001). -/
inductive LoadFailure where
  | fileUnreadable
  | fileTooLarge
  deriving DecidableEq, Repr

/-- The port `load_status` (R1003). -/
inductive LoadStatus where
  | ok
  | failed (why : LoadFailure)
  deriving DecidableEq, Repr

/-- `reset(img)` (R1000): a fresh state from the parameters, then the image over the low bytes. A failed load has no state:
"no step is ever taken" and no memory may be read (R1001, I1; log entry 16). An image of exactly CAP bytes loads. -/
def State.resetWith (cfg : Config) : ImageSource → Except LoadFailure State
  | .unreadable => .error .fileUnreadable
  | .bytes img =>
    if capacityOf cfg < img.length then .error .fileTooLarge
    else .ok ((State.init cfg).writeBytes 0 img)

/-- The port `load_status` after a reset (R1001, R1003). -/
def loadStatus (cfg : Config) (src : ImageSource) : LoadStatus :=
  match State.resetWith cfg src with
  | .ok _ => .ok
  | .error e => .failed e

end Sys2Proof.Machine
end

