-- ==== Sys2Proof/Safety.lean ====
section
/-! DEFINITION. The words the statements use: what an instruction names, what a frame says, when a state is terminal, which
states a run can be in (the invariant), and what two runs that differ only in their outputs have in common. -/

namespace Sys2Proof

/-- The register an instruction names as its destination `rd` (R103). The rd field of FENCE and FENCE.I is ignored (R830). -/
def Instr.dest : Instr → Option RegIdx
  | .add rd _ _ => some rd
  | .sub rd _ _ => some rd
  | .sll rd _ _ => some rd
  | .slt rd _ _ => some rd
  | .sltu rd _ _ => some rd
  | .xor rd _ _ => some rd
  | .srl rd _ _ => some rd
  | .sra rd _ _ => some rd
  | .or rd _ _ => some rd
  | .and rd _ _ => some rd
  | .addi rd _ _ => some rd
  | .slti rd _ _ => some rd
  | .sltiu rd _ _ => some rd
  | .xori rd _ _ => some rd
  | .ori rd _ _ => some rd
  | .andi rd _ _ => some rd
  | .slli rd _ _ => some rd
  | .srli rd _ _ => some rd
  | .srai rd _ _ => some rd
  | .lb rd _ _ => some rd
  | .lh rd _ _ => some rd
  | .lw rd _ _ => some rd
  | .lbu rd _ _ => some rd
  | .lhu rd _ _ => some rd
  | .sb _ _ _ => none
  | .sh _ _ _ => none
  | .sw _ _ _ => none
  | .beq _ _ _ => none
  | .bne _ _ _ => none
  | .blt _ _ _ => none
  | .bge _ _ _ => none
  | .bltu _ _ _ => none
  | .bgeu _ _ _ => none
  | .jal rd _ => some rd
  | .jalr rd _ _ => some rd
  | .lui rd _ => some rd
  | .auipc rd _ => some rd
  | .ecall => none
  | .ebreak => none
  | .csrrw rd _ _ => some rd
  | .csrrs rd _ _ => some rd
  | .csrrc rd _ _ => some rd
  | .csrrwi rd _ _ => some rd
  | .csrrsi rd _ _ => some rd
  | .csrrci rd _ _ => some rd
  | .fence _ _ _ => none
  | .fenceI _ _ _ => none

/-- The registers an instruction names as sources (R103). -/
def Instr.sources : Instr → List RegIdx
  | .add _ rs1 rs2 => [rs1, rs2]
  | .sub _ rs1 rs2 => [rs1, rs2]
  | .sll _ rs1 rs2 => [rs1, rs2]
  | .slt _ rs1 rs2 => [rs1, rs2]
  | .sltu _ rs1 rs2 => [rs1, rs2]
  | .xor _ rs1 rs2 => [rs1, rs2]
  | .srl _ rs1 rs2 => [rs1, rs2]
  | .sra _ rs1 rs2 => [rs1, rs2]
  | .or _ rs1 rs2 => [rs1, rs2]
  | .and _ rs1 rs2 => [rs1, rs2]
  | .addi _ rs1 _ => [rs1]
  | .slti _ rs1 _ => [rs1]
  | .sltiu _ rs1 _ => [rs1]
  | .xori _ rs1 _ => [rs1]
  | .ori _ rs1 _ => [rs1]
  | .andi _ rs1 _ => [rs1]
  | .slli _ rs1 _ => [rs1]
  | .srli _ rs1 _ => [rs1]
  | .srai _ rs1 _ => [rs1]
  | .lb _ rs1 _ => [rs1]
  | .lh _ rs1 _ => [rs1]
  | .lw _ rs1 _ => [rs1]
  | .lbu _ rs1 _ => [rs1]
  | .lhu _ rs1 _ => [rs1]
  | .sb rs1 rs2 _ => [rs1, rs2]
  | .sh rs1 rs2 _ => [rs1, rs2]
  | .sw rs1 rs2 _ => [rs1, rs2]
  | .beq rs1 rs2 _ => [rs1, rs2]
  | .bne rs1 rs2 _ => [rs1, rs2]
  | .blt rs1 rs2 _ => [rs1, rs2]
  | .bge rs1 rs2 _ => [rs1, rs2]
  | .bltu rs1 rs2 _ => [rs1, rs2]
  | .bgeu rs1 rs2 _ => [rs1, rs2]
  | .jal _ _ => []
  | .jalr _ rs1 _ => [rs1]
  | .lui _ _ => []
  | .auipc _ _ => []
  | .ecall => []
  | .ebreak => []
  | .csrrw _ rs1 _ => [rs1]
  | .csrrs _ rs1 _ => [rs1]
  | .csrrc _ rs1 _ => [rs1]
  | .csrrwi _ _ _ => []
  | .csrrsi _ _ _ => []
  | .csrrci _ _ _ => []
  | .fence _ _ _ => []
  | .fenceI _ _ _ => []

/-- The three stores (R211). -/
def Instr.isStore : Instr → Bool
  | .add _ _ _ => false
  | .sub _ _ _ => false
  | .sll _ _ _ => false
  | .slt _ _ _ => false
  | .sltu _ _ _ => false
  | .xor _ _ _ => false
  | .srl _ _ _ => false
  | .sra _ _ _ => false
  | .or _ _ _ => false
  | .and _ _ _ => false
  | .addi _ _ _ => false
  | .slti _ _ _ => false
  | .sltiu _ _ _ => false
  | .xori _ _ _ => false
  | .ori _ _ _ => false
  | .andi _ _ _ => false
  | .slli _ _ _ => false
  | .srli _ _ _ => false
  | .srai _ _ _ => false
  | .lb _ _ _ => false
  | .lh _ _ _ => false
  | .lw _ _ _ => false
  | .lbu _ _ _ => false
  | .lhu _ _ _ => false
  | .sb _ _ _ => true
  | .sh _ _ _ => true
  | .sw _ _ _ => true
  | .beq _ _ _ => false
  | .bne _ _ _ => false
  | .blt _ _ _ => false
  | .bge _ _ _ => false
  | .bltu _ _ _ => false
  | .bgeu _ _ _ => false
  | .jal _ _ => false
  | .jalr _ _ _ => false
  | .lui _ _ => false
  | .auipc _ _ => false
  | .ecall => false
  | .ebreak => false
  | .csrrw _ _ _ => false
  | .csrrs _ _ _ => false
  | .csrrc _ _ _ => false
  | .csrrwi _ _ _ => false
  | .csrrsi _ _ _ => false
  | .csrrci _ _ _ => false
  | .fence _ _ _ => false
  | .fenceI _ _ _ => false

/-- The loads and stores, which alone access data memory (R135, R211). -/
def Instr.accessesMemory : Instr → Bool
  | .add _ _ _ => false
  | .sub _ _ _ => false
  | .sll _ _ _ => false
  | .slt _ _ _ => false
  | .sltu _ _ _ => false
  | .xor _ _ _ => false
  | .srl _ _ _ => false
  | .sra _ _ _ => false
  | .or _ _ _ => false
  | .and _ _ _ => false
  | .addi _ _ _ => false
  | .slti _ _ _ => false
  | .sltiu _ _ _ => false
  | .xori _ _ _ => false
  | .ori _ _ _ => false
  | .andi _ _ _ => false
  | .slli _ _ _ => false
  | .srli _ _ _ => false
  | .srai _ _ _ => false
  | .lb _ _ _ => true
  | .lh _ _ _ => true
  | .lw _ _ _ => true
  | .lbu _ _ _ => true
  | .lhu _ _ _ => true
  | .sb _ _ _ => true
  | .sh _ _ _ => true
  | .sw _ _ _ => true
  | .beq _ _ _ => false
  | .bne _ _ _ => false
  | .blt _ _ _ => false
  | .bge _ _ _ => false
  | .bltu _ _ _ => false
  | .bgeu _ _ _ => false
  | .jal _ _ => false
  | .jalr _ _ _ => false
  | .lui _ _ => false
  | .auipc _ _ => false
  | .ecall => false
  | .ebreak => false
  | .csrrw _ _ _ => false
  | .csrrs _ _ _ => false
  | .csrrc _ _ _ => false
  | .csrrwi _ _ _ => false
  | .csrrsi _ _ _ => false
  | .csrrci _ _ _ => false
  | .fence _ _ _ => false
  | .fenceI _ _ _ => false

/-- The six CSR instructions, which alone read or write the CSR store (R125). -/
def Instr.isCsr : Instr → Bool
  | .add _ _ _ => false
  | .sub _ _ _ => false
  | .sll _ _ _ => false
  | .slt _ _ _ => false
  | .sltu _ _ _ => false
  | .xor _ _ _ => false
  | .srl _ _ _ => false
  | .sra _ _ _ => false
  | .or _ _ _ => false
  | .and _ _ _ => false
  | .addi _ _ _ => false
  | .slti _ _ _ => false
  | .sltiu _ _ _ => false
  | .xori _ _ _ => false
  | .ori _ _ _ => false
  | .andi _ _ _ => false
  | .slli _ _ _ => false
  | .srli _ _ _ => false
  | .srai _ _ _ => false
  | .lb _ _ _ => false
  | .lh _ _ _ => false
  | .lw _ _ _ => false
  | .lbu _ _ _ => false
  | .lhu _ _ _ => false
  | .sb _ _ _ => false
  | .sh _ _ _ => false
  | .sw _ _ _ => false
  | .beq _ _ _ => false
  | .bne _ _ _ => false
  | .blt _ _ _ => false
  | .bge _ _ _ => false
  | .bltu _ _ _ => false
  | .bgeu _ _ _ => false
  | .jal _ _ => false
  | .jalr _ _ _ => false
  | .lui _ _ => false
  | .auipc _ _ => false
  | .ecall => false
  | .ebreak => false
  | .csrrw _ _ _ => true
  | .csrrs _ _ _ => true
  | .csrrc _ _ _ => true
  | .csrrwi _ _ _ => true
  | .csrrsi _ _ _ => true
  | .csrrci _ _ _ => true
  | .fence _ _ _ => false
  | .fenceI _ _ _ => false

/-- The branches, JAL and JALR (42_control_transfer.md). -/
def Instr.isControlTransfer : Instr → Bool
  | .add _ _ _ => false
  | .sub _ _ _ => false
  | .sll _ _ _ => false
  | .slt _ _ _ => false
  | .sltu _ _ _ => false
  | .xor _ _ _ => false
  | .srl _ _ _ => false
  | .sra _ _ _ => false
  | .or _ _ _ => false
  | .and _ _ _ => false
  | .addi _ _ _ => false
  | .slti _ _ _ => false
  | .sltiu _ _ _ => false
  | .xori _ _ _ => false
  | .ori _ _ _ => false
  | .andi _ _ _ => false
  | .slli _ _ _ => false
  | .srli _ _ _ => false
  | .srai _ _ _ => false
  | .lb _ _ _ => false
  | .lh _ _ _ => false
  | .lw _ _ _ => false
  | .lbu _ _ _ => false
  | .lhu _ _ _ => false
  | .sb _ _ _ => false
  | .sh _ _ _ => false
  | .sw _ _ _ => false
  | .beq _ _ _ => true
  | .bne _ _ _ => true
  | .blt _ _ _ => true
  | .bge _ _ _ => true
  | .bltu _ _ _ => true
  | .bgeu _ _ _ => true
  | .jal _ _ => true
  | .jalr _ _ _ => true
  | .lui _ _ => false
  | .auipc _ _ => false
  | .ecall => false
  | .ebreak => false
  | .csrrw _ _ _ => false
  | .csrrs _ _ _ => false
  | .csrrc _ _ _ => false
  | .csrrwi _ _ _ => false
  | .csrrsi _ _ _ => false
  | .csrrci _ _ _ => false
  | .fence _ _ _ => false
  | .fenceI _ _ _ => false

/-- ECALL and EBREAK, which alone return a Halt effect (R906). -/
def Instr.isHalt : Instr → Bool
  | .add _ _ _ => false
  | .sub _ _ _ => false
  | .sll _ _ _ => false
  | .slt _ _ _ => false
  | .sltu _ _ _ => false
  | .xor _ _ _ => false
  | .srl _ _ _ => false
  | .sra _ _ _ => false
  | .or _ _ _ => false
  | .and _ _ _ => false
  | .addi _ _ _ => false
  | .slti _ _ _ => false
  | .sltiu _ _ _ => false
  | .xori _ _ _ => false
  | .ori _ _ _ => false
  | .andi _ _ _ => false
  | .slli _ _ _ => false
  | .srli _ _ _ => false
  | .srai _ _ _ => false
  | .lb _ _ _ => false
  | .lh _ _ _ => false
  | .lw _ _ _ => false
  | .lbu _ _ _ => false
  | .lhu _ _ _ => false
  | .sb _ _ _ => false
  | .sh _ _ _ => false
  | .sw _ _ _ => false
  | .beq _ _ _ => false
  | .bne _ _ _ => false
  | .blt _ _ _ => false
  | .bge _ _ _ => false
  | .bltu _ _ _ => false
  | .bgeu _ _ _ => false
  | .jal _ _ => false
  | .jalr _ _ _ => false
  | .lui _ _ => false
  | .auipc _ _ => false
  | .ecall => true
  | .ebreak => true
  | .csrrw _ _ _ => false
  | .csrrs _ _ _ => false
  | .csrrc _ _ _ => false
  | .csrrwi _ _ _ => false
  | .csrrsi _ _ _ => false
  | .csrrci _ _ _ => false
  | .fence _ _ _ => false
  | .fenceI _ _ _ => false

end Sys2Proof

namespace Sys2Proof.Machine

/-- A Halted or Trapped state (R901). -/
def State.Terminal (s : State) : Prop := s.runState ≠ .running

/-- Every byte of the address space reads as before. -/
def BytesUnchanged (s t : State) : Prop := ∀ a : Nat, t.readByte a = s.readByte a

/-- Every general register reads as before. -/
def RegsUnchanged (s t : State) : Prop := ∀ r : RegIdx, t.reg r = s.reg r

/-- From `s` to `t`, `x[rd] <- v` happened and no other register changed; for rd = 0 nothing was written (R102). -/
structure WroteReg (s t : State) (rd : RegIdx) (v : Word) : Prop where
  value : rd ≠ 0#5 → t.reg rd = v
  zero : t.reg 0#5 = 0#32
  others : ∀ r : RegIdx, r ≠ rd → t.reg r = s.reg r

/-- Parameters, run state, retired counter and trace are as before. -/
structure SameRun (s t : State) : Prop where
  cfg : t.cfg = s.cfg
  runState : t.runState = s.runState
  retired : t.retired = s.retired
  trace : t.trace = s.trace

/-- The effect of an instruction that writes rd and nothing else but pc: memory, CSRs and outputs are as before. -/
structure OnlyWroteReg (s t : State) (rd : RegIdx) (v : Word) : Prop where
  reg : WroteReg s t rd v
  run : SameRun s t
  bytes : BytesUnchanged s t
  csrs : t.csrs = s.csrs
  warnings : t.warnings = s.warnings

/-- The effect of an instruction that changes nothing but pc (R600, R830). -/
structure OnlyPcChanged (s t : State) : Prop where
  regs : RegsUnchanged s t
  run : SameRun s t
  bytes : BytesUnchanged s t
  csrs : t.csrs = s.csrs
  warnings : t.warnings = s.warnings

/-- The warning output after an access of width `w` at `a`: one event if any byte is at or above CAP, else none (R209). -/
def WarnedFrom (s t : State) (dir : AccessDir) (a : Word) (w : Width) : Prop :=
  t.warnings = if a.toNat + w.bytes ≤ s.capacity then s.warnings else s.warnings ++ [⟨dir, a, w⟩]

/-- The effect of a load of width `w` at `a` that brings `v`: rd, the warning if due, and nothing else but pc (R501). -/
structure LoadEffect (s t : State) (rd : RegIdx) (a : Word) (w : Width) (v : Word) : Prop where
  reg : WroteReg s t rd v
  run : SameRun s t
  bytes : BytesUnchanged s t
  csrs : t.csrs = s.csrs
  warnings : WarnedFrom s t .read a w
  pc : t.pc = s.pc + 4#32

/-- The effect of a store of the low bytes of `v`, width `w`, at `a`: byte `k` of `v` at `a + k` where that is below CAP, no
byte anywhere else, no register, the warning if due, and nothing else but pc (R206, R502). -/
structure StoreEffect (s t : State) (a : Word) (w : Width) (v : Word) : Prop where
  stored : ∀ k : Nat, k < w.bytes → a.toNat + k < s.capacity →
    (t.readByte (a.toNat + k)).toNat = v.toNat / 256 ^ k % 256
  bytes : ∀ b : Nat, (b < a.toNat ∨ a.toNat + w.bytes ≤ b ∨ s.capacity ≤ b) → t.readByte b = s.readByte b
  regs : RegsUnchanged s t
  run : SameRun s t
  csrs : t.csrs = s.csrs
  warnings : WarnedFrom s t .write a w
  pc : t.pc = s.pc + 4#32

/-- The effect of a CSR instruction at an address of CSR_IMPL that held `old` and is to hold `new` (R820). -/
structure CsrEffect (s t : State) (rd : RegIdx) (a : CsrAddr) (old new : Word) : Prop where
  reg : WroteReg s t rd old
  entry : t.csr? a = some new
  others : ∀ b : CsrAddr, b ≠ a → t.csr? b = s.csr? b
  run : SameRun s t
  bytes : BytesUnchanged s t
  warnings : t.warnings = s.warnings
  pc : t.pc = s.pc + 4#32

/-- The meanings of a list of instructions, one after another. -/
def execAll : List Instr → State → Result
  | [], s => .next s
  | i :: rest, s =>
    match exec i s with
    | .next t => execAll rest t
    | .fault f => .fault f
    | .refused r => .refused r

/-- The state with its two output streams emptied and the trace switch off: what R145 says the rules work on. -/
def State.withoutOutputs (s : State) : State :=
  { s with cfg := { s.cfg with traceEn := false }, warnings := [], trace := [] }

/-- A result with the outputs of its next state left out. -/
def resultWithoutOutputs : Result → Result
  | .next t => .next t.withoutOutputs
  | .fault f => .fault f
  | .refused r => .refused r

/-- What the run state says about the rest of the state: a Running block is below its limit, a limit halt stands at it, an
ECALL or EBREAK halt stands at that instruction, and a trap record is that of the check that failed at pc (R902, R903, R907,
R908, R909). -/
def State.recordOk (s : State) : Prop :=
  match s.runState with
  | .running => s.cfg.execLimit = 0#64 ∨ s.retired < s.cfg.execLimit
  | .halted .limitReached => s.cfg.execLimit ≠ 0#64 ∧ s.retired = s.cfg.execLimit
  | .halted .ecall => s.fetchTrap = none ∧ decode s.cfg.fenceDecode s.fetchWord = .instr .ecall
  | .halted .ebreak => s.fetchTrap = none ∧ decode s.cfg.fenceDecode s.fetchWord = .instr .ebreak
  | .trapped (.misalignedFetch p) => p = s.pc ∧ s.pc.toNat % 4 ≠ 0
  | .trapped (.fetchOutOfBounds p) => p = s.pc ∧ s.pc.toNat % 4 = 0 ∧ s.capacity ≤ s.pc.toNat + 3
  | .trapped (.illegalInstruction p w) =>
    p = s.pc ∧ w = s.fetchWord ∧ s.fetchTrap = none ∧ decode s.cfg.fenceDecode w = .illegal w

/-- The invariant of the block. -/
structure State.Inv (s : State) : Prop where
  /-- The parameters are in the ranges of R7. -/
  cfg_wf : s.cfg.wf
  /-- Memory is in its canonical form: below CAP, and no cell equal to MEM_FILL (R135, R136). -/
  mem_wf : Memory.wf s.cfg.memFill s.capacity s.mem
  /-- The storage behind x0 holds 0 (R102). -/
  x0_zero : s.regs[0] = 0#32
  /-- The CSR store implements exactly CSR_IMPL (R125). -/
  csr_impl : s.csrs.map (fun e => e.1) = s.cfg.csrInit.map (fun e => e.1)
  /-- The run state agrees with the rest (R140). -/
  record : s.recordOk

end Sys2Proof.Machine
end

