-- ==== Sys2Proof/Certificates/Slice0/Obligations.lean ====
section
/-! DEFINITION. The statements about the block. Each docstring names the rule of spec/ it formalises. The CSR_IMPL of a state
is the set of addresses its store has; by the invariant that is the set the configuration gives. -/

open Sys2Proof Sys2Proof.Machine

/-! ### Reset and load (70_reset_and_hazards.md) -/

/-- R150, the reset table, for every setting of the parameters and every image that fits; the default of ENTRY_PC is 0. -/
def Obligations.ResetLeavesTableValues : Prop :=
  (∀ (cfg : Config) (img : List Byte), img.length ≤ capacityOf cfg →
    ∃ s, State.resetWith cfg (.bytes img) = .ok s ∧ s.cfg = cfg ∧
      s.reg 0#5 = 0#32 ∧ (∀ r : RegIdx, r ≠ 0#5 → s.reg r = 0xF0F0F0F0#32) ∧ s.pc = cfg.entryPc ∧
      (∀ (a : Nat) (h : a < img.length), s.readByte a = img[a]) ∧
      (∀ a : Nat, img.length ≤ a → a < capacityOf cfg → s.readByte a = cfg.memFill) ∧
      s.csrs = cfg.csrInit ∧ s.runState = .running ∧ s.retired = 0#64 ∧ s.warnings = [] ∧ s.trace = []) ∧
  State.reset.pc = 0#32

/-- R1001: the two load failures and what `load_status` reports, the image of exactly CAP bytes, and the empty image. A failed
reset gives no state, so no step can follow it.
It rests on the spec's own decision D25. -/
def Obligations.LoadFailureStartsNoRun : Prop :=
  ∀ cfg : Config,
    (State.resetWith cfg .unreadable = .error .fileUnreadable ∧ loadStatus cfg .unreadable = .failed .fileUnreadable) ∧
    (∀ img : List Byte, capacityOf cfg < img.length →
      State.resetWith cfg (.bytes img) = .error .fileTooLarge ∧ loadStatus cfg (.bytes img) = .failed .fileTooLarge) ∧
    (∀ img : List Byte, img.length ≤ capacityOf cfg →
      (∃ s, State.resetWith cfg (.bytes img) = .ok s) ∧ loadStatus cfg (.bytes img) = .ok) ∧
    (∃ s, State.resetWith cfg (.bytes []) = .ok s ∧ ∀ a : Nat, a < capacityOf cfg → s.readByte a = cfg.memFill)

/-- Every reset with parameters in range ends in a state that meets the invariant; so does `State.reset`, whose parameter
values are the model's choice (log entry 2). -/
def Obligations.ResetSatisfiesInvariant : Prop :=
  (∀ (cfg : Config) (img : List Byte) (s : State), cfg.wf → State.resetWith cfg (.bytes img) = .ok s → s.Inv) ∧
  State.reset.Inv

/-- R216: CAP is MEM_REQ rounded up to a multiple of 16, a multiple of 16 is kept, and no step changes it. -/
def Obligations.CapacityRoundsUpAndStays : Prop :=
  (∀ cfg : Config, 16 ∣ capacityOf cfg ∧ cfg.memReq ≤ capacityOf cfg ∧ capacityOf cfg < cfg.memReq + 16 ∧
    (16 ∣ cfg.memReq → capacityOf cfg = cfg.memReq)) ∧
  (∀ cfg : Config, cfg.memReq = 0x100 → capacityOf cfg = 0x100) ∧ (∀ cfg : Config, cfg.memReq = 1 → capacityOf cfg = 16) ∧
  ∀ s t : State, step s = .next t → t.capacity = s.capacity

/-! ### The invariant -/

/-- Every step from every state that meets the invariant answers a state that meets it: the canonical form of memory (log
entry 13), the zero behind x0, the fixed CSR_IMPL, the parameters, and a run state that agrees with pc, memory, the counter
and the limit (R102, R125, R135, R140, R907).
It rests on the spec's own decisions D8, D10. -/
def Obligations.StepKeepsInvariant : Prop :=
  ∀ s t : State, s.Inv → step s = .next t → t.Inv

/-- From an even pc every step leaves an even pc: branch and JAL offsets are even and JALR clears bit 0 (R312, R314, R601,
R621), so a bad target is 2 modulo 4. -/
def Obligations.StepKeepsPcEven : Prop :=
  ∀ s t : State, s.pc.toNat % 2 = 0 → step s = .next t → t.pc.toNat % 2 = 0

/-- Two memories in canonical form that read the same at every address are the same list (log entry 13). -/
def Obligations.CanonicalMemoriesThatReadAlikeAreEqual : Prop :=
  ∀ (fill : Byte) (cap : Nat) (m n : Memory), Memory.wf fill cap m → Memory.wf fill cap n →
    (∀ a : Nat, m.get fill a = n.get fill a) → m = n

/-! ### Decoding (30_encoding.md) -/

/-- Decode of encode is the instruction, for every well-formed instruction that exists under FENCE_DECODE.
It rests on the spec's own decisions D11, D21. -/
def Obligations.DecodeOfEncodeIsInstruction : Prop :=
  ∀ (fd : FenceDecode) (i : Instr), i.wf = true → i.availableUnder fd = true → decode fd (encode i) = .instr i

/-- Encode of decode is the word: no bit of a legal word is dropped, and the decoder answers only well-formed instructions
that exist under FENCE_DECODE.
It rests on the spec's own decisions D11, D21. -/
def Obligations.EncodeOfDecodeIsWord : Prop :=
  ∀ (fd : FenceDecode) (w : Word) (i : Instr), decode fd w = .instr i →
    encode i = w ∧ i.wf = true ∧ i.availableUnder fd = true

/-- R335 and the opcode table: a word is ILLEGAL exactly when no row picks it, and a decoded word is picked by the row of its
mnemonic and by no other.
It rests on the spec's own decisions D11, D21. -/
def Obligations.DecodePicksTheOnlyMatchingRow : Prop :=
  ∀ (fd : FenceDecode) (w : Word),
    (decode fd w = .illegal w ↔ ∀ row ∈ opcodeTable, row.picks fd w = false) ∧
    ∀ i : Instr, decode fd w = .instr i →
      ∀ row ∈ opcodeTable, (row.picks fd w = true ↔ row.mnemonic = i.mnemonic)

/-- Words written out from the spec's encodings decode to what they stand for (95_test_vectors.md W1, W2, V-A6, V-B23, V-C10,
V-D5, V-E4, V-F2, V-F7, V-G1, V-H2, V-H15, V-I1, V-I2).
It rests on the spec's own decisions D11, D21. -/
def Obligations.SampleWordsDecode : Prop :=
  decode .illegal 0x00100093#32 = .instr (.addi 1 0 1) ∧
  decode .illegal 0x00000063#32 = .instr (.beq 0 0 0) ∧
  decode .illegal 0x402081B3#32 = .instr (.sub 3 1 2) ∧
  decode .illegal 0x4040D193#32 = .instr (.srai 3 1 4) ∧
  decode .illegal 0xFFC32283#32 = .instr (.lw 5 6 0xFFC) ∧
  decode .illegal 0xFE731FA3#32 = .instr (.sh 6 7 0xFFF) ∧
  decode .illegal 0xFE209CE3#32 = .instr (.bne 1 2 0x1FF8) ∧
  decode .illegal 0xFFDFF06F#32 = .instr (.jal 0 0x1FFFFC) ∧
  decode .illegal 0x004280E7#32 = .instr (.jalr 1 5 4) ∧
  decode .illegal 0x123452B7#32 = .instr (.lui 5 0x12345) ∧
  decode .illegal 0x00100073#32 = .instr .ebreak ∧
  decode .illegal 0x340FD2F3#32 = .instr (.csrrwi 5 31 0x340) ∧
  decode .nop 0x0FF0000F#32 = .instr (.fence 0 0 0x0FF) ∧
  decode .illegal 0x0FF0000F#32 = .illegal 0x0FF0000F#32

/-- R310–R314: the value of each immediate from the bits of the word, its parity and range where the rule gives them, and that
it is the immediate of every instruction of its format that the decoder answers. -/
def Obligations.ImmediatesComeFromTheirBits : Prop :=
  ∀ w : Word,
    (immI (immIOf w)).toInt = (w.extractLsb' 20 11).toNat - 2048 * (w.extractLsb' 31 1).toNat ∧
    (immS (immSOf w)).toInt =
      (w.extractLsb' 7 5).toNat + 32 * (w.extractLsb' 25 6).toNat - 2048 * (w.extractLsb' 31 1).toNat ∧
    (immB (immBOf w)).toInt =
      2 * (w.extractLsb' 8 4).toNat + 32 * (w.extractLsb' 25 6).toNat + 2048 * (w.extractLsb' 7 1).toNat
        - 4096 * (w.extractLsb' 31 1).toNat ∧
    (immB (immBOf w)).toInt % 2 = 0 ∧ -4096 ≤ (immB (immBOf w)).toInt ∧ (immB (immBOf w)).toInt ≤ 4094 ∧
    (immU (immUOf w)).toNat = 4096 * (w.extractLsb' 12 20).toNat ∧
    (immJ (immJOf w)).toInt =
      2 * (w.extractLsb' 21 10).toNat + 2048 * (w.extractLsb' 20 1).toNat + 4096 * (w.extractLsb' 12 8).toNat
        - 1048576 * (w.extractLsb' 31 1).toNat ∧
    (immJ (immJOf w)).toInt % 2 = 0 ∧ -1048576 ≤ (immJ (immJOf w)).toInt ∧ (immJ (immJOf w)).toInt ≤ 1048574 ∧
    ∀ (fd : FenceDecode) (i : Instr) (rd rs1 rs2 : RegIdx) (fI fS : BitVec 12) (fB : BitVec 13) (fU : BitVec 20)
      (fJ : BitVec 21), decode fd w = .instr i →
      (i ∈ [.addi rd rs1 fI, .slti rd rs1 fI, .sltiu rd rs1 fI, .xori rd rs1 fI, .ori rd rs1 fI, .andi rd rs1 fI,
          .lb rd rs1 fI, .lh rd rs1 fI, .lw rd rs1 fI, .lbu rd rs1 fI, .lhu rd rs1 fI, .jalr rd rs1 fI] →
        fI = immIOf w) ∧
      (i ∈ [.sb rs1 rs2 fS, .sh rs1 rs2 fS, .sw rs1 rs2 fS] → fS = immSOf w) ∧
      (i ∈ [.beq rs1 rs2 fB, .bne rs1 rs2 fB, .blt rs1 rs2 fB, .bge rs1 rs2 fB, .bltu rs1 rs2 fB, .bgeu rs1 rs2 fB] →
        fB = immBOf w) ∧
      (i ∈ [.lui rd fU, .auipc rd fU] → fU = immUOf w) ∧
      (i = .jal rd fJ → fJ = immJOf w)

/-- R315–R318: the registers, shift amount, CSR address and zimm of every instruction the decoder answers are their bits of the
word; zimm is zero-extended, and a register shift takes the low 5 bits of its register. The positions of the fields are the
spec's general knowledge (log entry 12; GK3, GK5, D21). -/
def Obligations.OperandFieldsComeFromTheirBits : Prop :=
  (∀ (fd : FenceDecode) (w : Word) (i : Instr) (rd rs1 rs2 sh z : BitVec 5) (f : BitVec 12) (fB : BitVec 13) (fU : BitVec 20)
      (fJ : BitVec 21), decode fd w = .instr i →
    (i ∈ [.add rd rs1 rs2, .sub rd rs1 rs2, .sll rd rs1 rs2, .slt rd rs1 rs2, .sltu rd rs1 rs2, .xor rd rs1 rs2,
        .srl rd rs1 rs2, .sra rd rs1 rs2, .or rd rs1 rs2, .and rd rs1 rs2] →
      rd = w.extractLsb' 7 5 ∧ rs1 = w.extractLsb' 15 5 ∧ rs2 = w.extractLsb' 20 5) ∧
    (i ∈ [.addi rd rs1 f, .slti rd rs1 f, .sltiu rd rs1 f, .xori rd rs1 f, .ori rd rs1 f, .andi rd rs1 f, .lb rd rs1 f,
        .lh rd rs1 f, .lw rd rs1 f, .lbu rd rs1 f, .lhu rd rs1 f, .jalr rd rs1 f] →
      rd = w.extractLsb' 7 5 ∧ rs1 = w.extractLsb' 15 5) ∧
    (i ∈ [.slli rd rs1 sh, .srli rd rs1 sh, .srai rd rs1 sh] →
      rd = w.extractLsb' 7 5 ∧ rs1 = w.extractLsb' 15 5 ∧ sh = w.extractLsb' 20 5) ∧
    (i ∈ [.sb rs1 rs2 f, .sh rs1 rs2 f, .sw rs1 rs2 f, .beq rs1 rs2 fB, .bne rs1 rs2 fB, .blt rs1 rs2 fB, .bge rs1 rs2 fB,
        .bltu rs1 rs2 fB, .bgeu rs1 rs2 fB] →
      rs1 = w.extractLsb' 15 5 ∧ rs2 = w.extractLsb' 20 5) ∧
    (i ∈ [.lui rd fU, .auipc rd fU, .jal rd fJ] → rd = w.extractLsb' 7 5) ∧
    (i ∈ [.csrrw rd rs1 f, .csrrs rd rs1 f, .csrrc rd rs1 f] →
      rd = w.extractLsb' 7 5 ∧ rs1 = w.extractLsb' 15 5 ∧ f = w.extractLsb' 20 12) ∧
    (i ∈ [.csrrwi rd z f, .csrrsi rd z f, .csrrci rd z f] →
      rd = w.extractLsb' 7 5 ∧ z = w.extractLsb' 15 5 ∧ f = w.extractLsb' 20 12) ∧
    (i ∈ [.fence rd rs1 f, .fenceI rd rs1 f] →
      rd = w.extractLsb' 7 5 ∧ rs1 = w.extractLsb' 15 5 ∧ f = w.extractLsb' 20 12)) ∧
  (∀ z : BitVec 5, (zimmWord z).toNat = z.toNat) ∧ ∀ v : Word, shiftAmount v = v.toNat % 32

/-- R812, R828: a SYSTEM word with funct3 = 100, and one with funct3 = 000 that is not exactly ECALL or EBREAK (so MRET, SRET
and WFI), is ILLEGAL under either FENCE_DECODE, and a Running block that fetches it traps (R840, R909). The SYSTEM opcode and the
words of ECALL and EBREAK are the spec's general knowledge (log entry 12; D21, GK1, GK4). -/
def Obligations.UndefinedSystemWordsTrap : Prop :=
  ∀ w : Word, w.extractLsb' 0 7 = 0b1110011#7 →
    (w.extractLsb' 12 3 = 0b100#3 ∨
      w.extractLsb' 12 3 = 0b000#3 ∧ w ≠ 0x00000073#32 ∧ w ≠ 0x00100073#32) →
    (∀ fd : FenceDecode, decode fd w = .illegal w) ∧
    ∀ s : State, s.runState = .running → s.pc.toNat % 4 = 0 → s.pc.toNat + 3 < s.capacity → s.memRead32 s.pc = w →
      ∃ t, step s = .next t ∧ t.runState = .trapped (.illegalInstruction s.pc w)

/-! ### The step (60_exceptions.md) -/

/-- A step runs the decoded instruction: on a Running block whose fetch checks pass, when the four bytes at pc decode to `i`,
the step is `exec i` on the state with the trace event emitted, then the counter and, after a Continue, the limit (R900).
It rests on the spec's own decisions D9, D10, D26. -/
def Obligations.StepRunsDecodedInstruction : Prop :=
  ∀ (s t : State) (i : Instr), s.runState = .running → s.pc.toNat % 4 = 0 → s.pc.toNat + 3 < s.capacity →
    decodeBytes s.cfg.fenceDecode (s.readByte s.pc.toNat) (s.readByte (s.pc.toNat + 1)) (s.readByte (s.pc.toNat + 2))
      (s.readByte (s.pc.toNat + 3)) = .instr i →
    exec i { s with trace := if s.cfg.traceEn then s.trace ++ [⟨s.pc, s.memRead32 s.pc⟩] else s.trace } = .next t →
    step s = .next { t with
      retired := t.retired + 1#64
      runState :=
        if t.runState = .running ∧ t.cfg.execLimit ≠ 0#64 ∧ t.cfg.execLimit ≤ t.retired + 1#64 then .halted .limitReached
        else t.runState }

/-- Every instruction and every step answers a next state: nothing faults and nothing is refused (R901, R905, R906, D28).
It rests on the spec's own decision D28. -/
def Obligations.EveryStepAnswersNextState : Prop :=
  (∀ (i : Instr) (s : State), ∃ t, exec i s = .next t) ∧ ∀ s : State, ∃ t, step s = .next t

/-- R901: a terminal state takes no step, however often one is asked for.
It rests on the spec's own decision D28. -/
def Obligations.TerminalStatesNeverChange : Prop :=
  ∀ s : State, s.Terminal → step s = .next s ∧ ∀ k : Nat, Host.Core.run Sys2Proof.core k s = .next s

/-- R902: a misaligned pc traps with nothing else changed, whatever memory holds; from an aligned pc only a taken branch, JAL or
JALR brings a misaligned one, and a reset only a misaligned ENTRY_PC. -/
def Obligations.MisalignedFetchTraps : Prop :=
  (∀ s : State, s.runState = .running → s.pc.toNat % 4 ≠ 0 →
    step s = .next { s with runState := .trapped (.misalignedFetch s.pc) }) ∧
  (∀ s t : State, s.pc.toNat % 4 = 0 → step s = .next t → t.pc.toNat % 4 ≠ 0 →
    s.runState = .running ∧ ∃ i : Instr, decode s.cfg.fenceDecode (s.memRead32 s.pc) = .instr i ∧ i.isControlTransfer = true ∧
      t.pc ≠ s.pc + 4#32) ∧
  ∀ (cfg : Config) (img : List Byte) (s : State), State.resetWith cfg (.bytes img) = .ok s → s.pc = cfg.entryPc

/-- R903: an aligned pc whose word does not lie below CAP traps with nothing else changed; the test in natural numbers is the
same as `pc ≥ CAP` for CAP > 0, pc = 0xFFFFFFFC passes only when CAP = 2^32, and with CAP = 0 every fetch traps.
It rests on the spec's own decision D24. -/
def Obligations.OutOfBoundsFetchTraps : Prop :=
  (∀ s : State, s.runState = .running → s.pc.toNat % 4 = 0 → s.capacity ≤ s.pc.toNat + 3 →
    step s = .next { s with runState := .trapped (.fetchOutOfBounds s.pc) }) ∧
  (∀ s : State, s.pc.toNat % 4 = 0 → 0 < s.capacity →
    (s.capacity ≤ s.pc.toNat + 3 ↔ s.capacity ≤ s.pc.toNat) ∧
    (s.capacity ≤ s.pc.toNat + 3 ↔ s.capacity - 3 ≤ s.pc.toNat)) ∧
  (∀ s : State, s.cfg.wf → s.pc = 0xFFFFFFFC#32 → (s.pc.toNat + 3 < s.capacity ↔ s.capacity = 2 ^ 32)) ∧
  ∀ s : State, s.runState = .running → s.capacity = 0 → ∃ t tr, step s = .next t ∧ t.runState = .trapped tr

/-- R909: ILLEGAL traps with the pc and the word recorded; pc, retired and everything but the trace output stay.
It rests on the spec's own decisions D9, D26. -/
def Obligations.IllegalWordTraps : Prop :=
  ∀ s : State, s.runState = .running → s.pc.toNat % 4 = 0 → s.pc.toNat + 3 < s.capacity →
    decode s.cfg.fenceDecode (s.memRead32 s.pc) = .illegal (s.memRead32 s.pc) →
    step s = .next { s with
      runState := .trapped (.illegalInstruction s.pc (s.memRead32 s.pc))
      trace := if s.cfg.traceEn then s.trace ++ [⟨s.pc, s.memRead32 s.pc⟩] else s.trace }

/-- R908: a halt counts as retired, leaves pc at the ECALL or EBREAK, and keeps its reason whatever the execution limit.
It rests on the spec's own decisions D9, D10. -/
def Obligations.HaltCountsAndKeepsPc : Prop :=
  ∀ (s : State) (i : Instr) (r : HaltReason), s.runState = .running → s.pc.toNat % 4 = 0 →
    s.pc.toNat + 3 < s.capacity → decode s.cfg.fenceDecode (s.memRead32 s.pc) = .instr i →
    (i = .ecall ∧ r = .ecall ∨ i = .ebreak ∧ r = .ebreak) →
    step s = .next { s with
      runState := .halted r
      retired := s.retired + 1#64
      trace := if s.cfg.traceEn then s.trace ++ [⟨s.pc, s.memRead32 s.pc⟩] else s.trace }

/-- R907: after a Continue pc is the instruction's npc, one more is retired, and the block halts with LimitReached exactly
when a non-zero limit is reached; below the limit "reached" is the same as "equal".
It rests on the spec's own decisions D8, D10. -/
def Obligations.ContinueRetiresAndTestsLimit : Prop :=
  ∀ (s : State) (i : Instr), s.runState = .running → s.pc.toNat % 4 = 0 → s.pc.toNat + 3 < s.capacity →
    decode s.cfg.fenceDecode (s.memRead32 s.pc) = .instr i → i.isHalt = false →
    ∃ u t, exec i s = .next u ∧ step s = .next t ∧ t.pc = u.pc ∧ t.retired = s.retired + 1#64 ∧
      (s.cfg.execLimit ≠ 0#64 ∧ s.cfg.execLimit ≤ s.retired + 1#64 → t.runState = .halted .limitReached) ∧
      (¬ (s.cfg.execLimit ≠ 0#64 ∧ s.cfg.execLimit ≤ s.retired + 1#64) → t.runState = .running) ∧
      (s.Inv → s.cfg.execLimit ≠ 0#64 →
        (s.cfg.execLimit ≤ s.retired + 1#64 ↔ s.retired + 1#64 = s.cfg.execLimit))

/-- Traps are precise: a step that traps leaves everything as it was but the run state and the trace output (R917).
It rests on the spec's own decision D9. -/
def Obligations.TrapsArePrecise : Prop :=
  ∀ (s t : State) (tr : Trap), s.runState = .running → step s = .next t → t.runState = .trapped tr →
    t = { s with runState := .trapped tr, trace := t.trace } ∧ tr.pc = s.pc

/-- A step emits one trace event, of the fetched word at pc, exactly when TRACE_EN is set and the fetch checks pass (R930).
It rests on the spec's own decision D26. -/
def Obligations.TraceEmitsOneEventPerFetch : Prop :=
  ∀ s t : State, s.runState = .running → step s = .next t →
    t.trace =
      if s.cfg.traceEn = true ∧ s.pc.toNat % 4 = 0 ∧ s.pc.toNat + 3 < s.capacity then
        s.trace ++ [⟨s.pc, s.memRead32 s.pc⟩]
      else s.trace

/-- The outputs never affect a run: two states that differ only in TRACE_EN, the trace and the warnings reach, after any
number of steps, states that differ only in those (R145, R930).
It rests on the spec's own decision D26. -/
def Obligations.OutputsNeverAffectTheRun : Prop :=
  ∀ (s₁ s₂ : State) (k : Nat), s₁.withoutOutputs = s₂.withoutOutputs →
    resultWithoutOutputs (Host.Core.run Sys2Proof.core k s₁) = resultWithoutOutputs (Host.Core.run Sys2Proof.core k s₂)

/-- With EXEC_LIMIT > 0 every run ends within EXEC_LIMIT steps: from any Running state that meets the invariant, a terminal
state is reached in at most the steps the counter has left (R940).
It rests on the spec's own decisions D7, D8, D10. -/
def Obligations.RunEndsWithinExecutionLimit : Prop :=
  ∀ s : State, s.Inv → s.runState = .running → s.cfg.execLimit ≠ 0#64 →
    ∃ (k : Nat) (t : State), k ≤ s.cfg.execLimit.toNat - s.retired.toNat ∧
      Host.Core.run Sys2Proof.core k s = .next t ∧ t.Terminal

/-- The status outputs of every run state: its code, the halt reason's or trap cause's, and the recorded pc and word (R140,
R910, R1003). In a state that meets the invariant the record is that of the machine: the trap pc is the pc, a trap word the
fetched, ILLEGAL word, a halt with LimitReached stands at the limit, and run_state is 0 exactly while a step changes the state.
The codes are the spec's own decision D16; that a port without a meaning in a run state answers none is the model's choice (log
entry 26). -/
def Obligations.StatusPortsReportTheRecord : Prop :=
  (∀ s : State,
    (s.runState = .running → s.statusPorts = ⟨0, none, none, none, none⟩) ∧
    (s.runState = .halted .ecall → s.statusPorts = ⟨1, some 0, none, none, none⟩) ∧
    (s.runState = .halted .ebreak → s.statusPorts = ⟨1, some 1, none, none, none⟩) ∧
    (s.runState = .halted .limitReached → s.statusPorts = ⟨1, some 2, none, none, none⟩) ∧
    (∀ p : Word, s.runState = .trapped (.misalignedFetch p) → s.statusPorts = ⟨2, none, some 0, some p, none⟩) ∧
    (∀ p : Word, s.runState = .trapped (.fetchOutOfBounds p) → s.statusPorts = ⟨2, none, some 1, some p, none⟩) ∧
    (∀ p w : Word, s.runState = .trapped (.illegalInstruction p w) →
      s.statusPorts = ⟨2, none, some 2, some p, some w⟩)) ∧
  ∀ s : State, s.Inv →
    (∀ p : Word, s.statusPorts.trapPc = some p → p = s.pc) ∧
    (∀ w : Word, s.statusPorts.trapWord = some w → w = s.memRead32 s.pc ∧ decode s.cfg.fenceDecode w = .illegal w) ∧
    (s.statusPorts.haltReason = some 2 → s.retired = s.cfg.execLimit) ∧
    (s.statusPorts.runState = 0 ↔ step s ≠ .next s)

/-! ### Whole-machine rules over all instructions -/

/-- R102: x0 reads as 0, a write to it changes no state, and so for every instruction. -/
def Obligations.RegisterZeroIsHardwired : Prop :=
  (∀ s : State, s.reg 0#5 = 0#32) ∧ (∀ (s : State) (v : Word), s.setReg 0#5 v = s) ∧
  ∀ (i : Instr) (s t : State), exec i s = .next t → t.reg 0#5 = 0#32 ∧ (i.dest = some 0#5 → RegsUnchanged s t)

/-- An instruction changes only what it names: its rd, memory for a store, the CSR store for a CSR instruction, the run state
for ECALL and EBREAK, the warnings for a load or store; and pc moves by 4 unless it is a transfer or a halt (R103, R112, R125,
R135, R400, R906). -/
def Obligations.OnlyNamedStateChanges : Prop :=
  ∀ (i : Instr) (s t : State), exec i s = .next t →
    (∀ r : RegIdx, i.dest ≠ some r → t.reg r = s.reg r) ∧ (i.isStore = false → t.mem = s.mem) ∧
    (i.isCsr = false → t.csrs = s.csrs) ∧ (i.isHalt = false → t.runState = s.runState) ∧
    (i.accessesMemory = false → t.warnings = s.warnings) ∧
    (i.isControlTransfer = false → i.isHalt = false → t.pc = s.pc + 4#32) ∧ (i.isHalt = true → t.pc = s.pc) ∧
    t.cfg = s.cfg ∧ t.retired = s.retired ∧ t.trace = s.trace

/-- An instruction reads only the registers it names: changing another register changes nothing in its outcome but that
register (R103).
It rests on the spec's own decision D15. -/
def Obligations.OnlyNamedRegistersAreRead : Prop :=
  ∀ (i : Instr) (s t : State) (r : RegIdx) (v : Word), r ∉ i.sources → exec i s = .next t →
    ∃ u, exec i (s.setReg r v) = .next u ∧ (∀ q : RegIdx, q ≠ r → u.reg q = t.reg q) ∧ u.pc = t.pc ∧ u.mem = t.mem ∧
      u.csrs = t.csrs ∧ u.runState = t.runState ∧ u.warnings = t.warnings

/-- Only loads and stores depend on memory, and only CSR instructions on the CSR store (R125, R135).
It rests on the spec's own decision D13. -/
def Obligations.MemoryAndCsrsReadOnlyByTheirInstructions : Prop :=
  ∀ (i : Instr) (s t : State) (m : Memory) (c : CsrStore), exec i s = .next t →
    (i.accessesMemory = false → exec i { s with mem := m } = .next { t with mem := m }) ∧
    (i.isCsr = false → exec i { s with csrs := c } = .next { t with csrs := c })

/-- No instruction reads the retired counter or the run state (R126, R141). -/
def Obligations.CounterAndRunStateAreNeverRead : Prop :=
  ∀ (i : Instr) (s t : State) (n : BitVec 64) (r : RunState), exec i s = .next t →
    exec i { s with retired := n } = .next { t with retired := n } ∧
    exec i { s with runState := r } = .next { t with runState := if i.isHalt then t.runState else r }

/-! ### Integer computational instructions (40_integer_alu.md, 43_upper_immediate.md) -/

/-- ADD, SUB, ADDI complete in every state with the result modulo 2^32, and change only rd and pc (R400, R402, R410, R411,
R430). -/
def Obligations.AdditionAndSubtractionWrap : Prop :=
  ∀ (s : State) (rd rs1 rs2 : RegIdx) (imm : BitVec 12),
    (∃ t v, exec (.add rd rs1 rs2) s = .next t ∧ OnlyWroteReg s t rd v ∧ t.pc = s.pc + 4#32 ∧
      v.toNat = ((s.reg rs1).toNat + (s.reg rs2).toNat) % 2 ^ 32) ∧
    (∃ t v, exec (.sub rd rs1 rs2) s = .next t ∧ OnlyWroteReg s t rd v ∧ t.pc = s.pc + 4#32 ∧
      (v.toNat : Int) = ((s.reg rs1).toNat - (s.reg rs2).toNat : Int) % 2 ^ 32) ∧
    (∃ t v, exec (.addi rd rs1 imm) s = .next t ∧ OnlyWroteReg s t rd v ∧ t.pc = s.pc + 4#32 ∧
      (v.toNat : Int) = ((s.reg rs1).toNat + imm.toInt) % 2 ^ 32)

/-- AND, OR, XOR and their immediate forms complete in every state, bit by bit, the immediate's bits above 11 copies of its
bit 11 (R310, R400, R415, R418, R419, R433–R435). -/
def Obligations.BitwiseInstructionsActBitByBit : Prop :=
  ∀ (s : State) (rd rs1 rs2 : RegIdx) (imm : BitVec 12),
    (∃ t v, exec (.and rd rs1 rs2) s = .next t ∧ OnlyWroteReg s t rd v ∧ t.pc = s.pc + 4#32 ∧
      ∀ k : Nat, k < 32 → v.getLsbD k = ((s.reg rs1).getLsbD k && (s.reg rs2).getLsbD k)) ∧
    (∃ t v, exec (.or rd rs1 rs2) s = .next t ∧ OnlyWroteReg s t rd v ∧ t.pc = s.pc + 4#32 ∧
      ∀ k : Nat, k < 32 → v.getLsbD k = ((s.reg rs1).getLsbD k || (s.reg rs2).getLsbD k)) ∧
    (∃ t v, exec (.xor rd rs1 rs2) s = .next t ∧ OnlyWroteReg s t rd v ∧ t.pc = s.pc + 4#32 ∧
      ∀ k : Nat, k < 32 → v.getLsbD k = ((s.reg rs1).getLsbD k ^^ (s.reg rs2).getLsbD k)) ∧
    (∃ t v, exec (.andi rd rs1 imm) s = .next t ∧ OnlyWroteReg s t rd v ∧ t.pc = s.pc + 4#32 ∧
      ∀ k : Nat, k < 32 → v.getLsbD k = ((s.reg rs1).getLsbD k && imm.getLsbD (min k 11))) ∧
    (∃ t v, exec (.ori rd rs1 imm) s = .next t ∧ OnlyWroteReg s t rd v ∧ t.pc = s.pc + 4#32 ∧
      ∀ k : Nat, k < 32 → v.getLsbD k = ((s.reg rs1).getLsbD k || imm.getLsbD (min k 11))) ∧
    (∃ t v, exec (.xori rd rs1 imm) s = .next t ∧ OnlyWroteReg s t rd v ∧ t.pc = s.pc + 4#32 ∧
      ∀ k : Nat, k < 32 → v.getLsbD k = ((s.reg rs1).getLsbD k ^^ imm.getLsbD (min k 11)))

/-- The six shifts complete in every state: the amount is the low 5 bits, a left shift multiplies modulo 2^32, a logical right
shift divides the unsigned value and an arithmetic one the signed value, rounding down (R315, R402, R412, R416, R417,
R436–R438). -/
def Obligations.ShiftsMultiplyAndDivide : Prop :=
  ∀ (s : State) (rd rs1 rs2 : RegIdx) (shamt : BitVec 5),
    (∃ t v, exec (.sll rd rs1 rs2) s = .next t ∧ OnlyWroteReg s t rd v ∧ t.pc = s.pc + 4#32 ∧
      v.toNat = (s.reg rs1).toNat * 2 ^ ((s.reg rs2).toNat % 32) % 2 ^ 32) ∧
    (∃ t v, exec (.srl rd rs1 rs2) s = .next t ∧ OnlyWroteReg s t rd v ∧ t.pc = s.pc + 4#32 ∧
      v.toNat = (s.reg rs1).toNat / 2 ^ ((s.reg rs2).toNat % 32)) ∧
    (∃ t v, exec (.sra rd rs1 rs2) s = .next t ∧ OnlyWroteReg s t rd v ∧ t.pc = s.pc + 4#32 ∧
      v.toInt = (s.reg rs1).toInt / 2 ^ ((s.reg rs2).toNat % 32)) ∧
    (∃ t v, exec (.slli rd rs1 shamt) s = .next t ∧ OnlyWroteReg s t rd v ∧ t.pc = s.pc + 4#32 ∧
      v.toNat = (s.reg rs1).toNat * 2 ^ shamt.toNat % 2 ^ 32) ∧
    (∃ t v, exec (.srli rd rs1 shamt) s = .next t ∧ OnlyWroteReg s t rd v ∧ t.pc = s.pc + 4#32 ∧
      v.toNat = (s.reg rs1).toNat / 2 ^ shamt.toNat) ∧
    (∃ t v, exec (.srai rd rs1 shamt) s = .next t ∧ OnlyWroteReg s t rd v ∧ t.pc = s.pc + 4#32 ∧
      v.toInt = (s.reg rs1).toInt / 2 ^ shamt.toNat)

/-- SLT, SLTU, SLTI, SLTIU complete in every state and write 1 or 0; SLTIU sign-extends its immediate and then compares
unsigned (R400, R413, R414, R431, R432). -/
def Obligations.ComparisonsWriteOneOrZero : Prop :=
  ∀ (s : State) (rd rs1 rs2 : RegIdx) (imm : BitVec 12),
    (∃ t v, exec (.slt rd rs1 rs2) s = .next t ∧ OnlyWroteReg s t rd v ∧ t.pc = s.pc + 4#32 ∧
      v.toNat = if (s.reg rs1).toInt < (s.reg rs2).toInt then 1 else 0) ∧
    (∃ t v, exec (.sltu rd rs1 rs2) s = .next t ∧ OnlyWroteReg s t rd v ∧ t.pc = s.pc + 4#32 ∧
      v.toNat = if (s.reg rs1).toNat < (s.reg rs2).toNat then 1 else 0) ∧
    (∃ t v, exec (.slti rd rs1 imm) s = .next t ∧ OnlyWroteReg s t rd v ∧ t.pc = s.pc + 4#32 ∧
      v.toNat = if (s.reg rs1).toInt < imm.toInt then 1 else 0) ∧
    (∃ t v, exec (.sltiu rd rs1 imm) s = .next t ∧ OnlyWroteReg s t rd v ∧ t.pc = s.pc + 4#32 ∧
      v.toNat = if ((s.reg rs1).toNat : Int) < imm.toInt % 2 ^ 32 then 1 else 0)

/-- LUI and AUIPC complete in every state: imm20 times 4096, alone or added to the instruction's own address modulo 2^32
(R700, R710, R711). -/
def Obligations.UpperImmediatesFillBits31To12 : Prop :=
  ∀ (s : State) (rd : RegIdx) (imm : BitVec 20),
    (∃ t v, exec (.lui rd imm) s = .next t ∧ OnlyWroteReg s t rd v ∧ t.pc = s.pc + 4#32 ∧ v.toNat = imm.toNat * 4096) ∧
    (∃ t v, exec (.auipc rd imm) s = .next t ∧ OnlyWroteReg s t rd v ∧ t.pc = s.pc + 4#32 ∧
      v.toNat = (s.pc.toNat + imm.toNat * 4096) % 2 ^ 32)

/-- R347, general knowledge of the spec (log entry 22): executing the expansion of `li rd, imm` leaves imm in rd, of `la` the
address, and of `call` jumps to pc + off with bit 0 cleared and links pc + 8; no other register changes but those named. -/
def Obligations.UpperLowerPairsRebuildTheirValue : Prop :=
  ∀ (s : State) (rd : RegIdx) (v : Word), rd ≠ 0#5 →
    (∃ t, execAll (Pseudo.expand (.li rd v)) s = .next t ∧ t.reg rd = v ∧ ∀ r : RegIdx, r ≠ rd → t.reg r = s.reg r) ∧
    (∃ t, execAll (Pseudo.expand (.la rd v)) s = .next t ∧ t.reg rd = s.pc + v ∧ t.pc = s.pc + 8#32 ∧
      ∀ r : RegIdx, r ≠ rd → t.reg r = s.reg r) ∧
    (∃ t, execAll (Pseudo.expand (.call v)) s = .next t ∧ t.reg 1#5 = s.pc + 8#32 ∧
      t.pc = (s.pc + v) &&& 0xFFFFFFFE#32 ∧ ∀ r : RegIdx, r ≠ 1#5 → t.reg r = s.reg r)

/-! ### Loads and stores (41_loads_stores.md, 20_memory.md) -/

/-- The five loads complete in every state at every address: the address is x[rs1] + imm modulo 2^32, the bytes are read
little-endian at natural-number addresses, a byte at or above CAP reads 0, the value is extended, and one warning is emitted
exactly when a byte is out of range, also when rd = 0 (R205, R207–R210, R500, R501, R510–R514).
It rests on the spec's own decisions D3, D4, D5. -/
def Obligations.LoadsReadExtendAndWarn : Prop :=
  ∀ (s : State) (rd rs1 : RegIdx) (imm : BitVec 12) (ea : Word), ea = loadAddr s rs1 imm →
    (ea.toNat : Int) = ((s.reg rs1).toNat + imm.toInt) % 2 ^ 32 ∧
    (∀ a : Nat, s.capacity ≤ a → s.readByte a = 0#8) ∧
    (∃ t v, exec (.lb rd rs1 imm) s = .next t ∧ LoadEffect s t rd ea .byte v ∧
      v.toInt = (s.readByte ea.toNat).toInt) ∧
    (∃ t v, exec (.lh rd rs1 imm) s = .next t ∧ LoadEffect s t rd ea .half v ∧
      v.toInt = (s.readByte ea.toNat).toNat + 256 * (s.readByte (ea.toNat + 1)).toInt) ∧
    (∃ t v, exec (.lw rd rs1 imm) s = .next t ∧ LoadEffect s t rd ea .word v ∧
      v.toNat = (s.readByte ea.toNat).toNat + 256 * (s.readByte (ea.toNat + 1)).toNat +
        65536 * (s.readByte (ea.toNat + 2)).toNat + 16777216 * (s.readByte (ea.toNat + 3)).toNat) ∧
    (∃ t v, exec (.lbu rd rs1 imm) s = .next t ∧ LoadEffect s t rd ea .byte v ∧
      v.toNat = (s.readByte ea.toNat).toNat) ∧
    (∃ t v, exec (.lhu rd rs1 imm) s = .next t ∧ LoadEffect s t rd ea .half v ∧
      v.toNat = (s.readByte ea.toNat).toNat + 256 * (s.readByte (ea.toNat + 1)).toNat)

/-- The three stores complete in every state at every address: the low bytes of x[rs2] land little-endian below CAP, every
byte outside them reads as before, no register changes, and one warning is emitted exactly when a byte is out of range (R206–
R209, R500, R502, R520–R522).
It rests on the spec's own decisions D3, D4, D5. -/
def Obligations.StoresWriteTheirBytesOnly : Prop :=
  ∀ (s : State) (rs1 rs2 : RegIdx) (imm : BitVec 12) (ea : Word), ea = storeAddr s rs1 imm →
    (ea.toNat : Int) = ((s.reg rs1).toNat + imm.toInt) % 2 ^ 32 ∧
    (∃ t, exec (.sb rs1 rs2 imm) s = .next t ∧ StoreEffect s t ea .byte (s.reg rs2)) ∧
    (∃ t, exec (.sh rs1 rs2 imm) s = .next t ∧ StoreEffect s t ea .half (s.reg rs2)) ∧
    (∃ t, exec (.sw rs1 rs2 imm) s = .next t ∧ StoreEffect s t ea .word (s.reg rs2))

/-- R203: after a 4-byte write inside memory, aligned or not, a read of any width sees its bytes, and a later fetch at a
multiple of 4 sees the word. -/
def Obligations.MixedWidthsSeeTheSameBytes : Prop :=
  ∀ (s t : State) (a v : Word), s.cfg.memReq ≤ 2 ^ 32 → a.toNat + 3 < s.capacity → t = s.memWrite a .word v →
    (∀ k : Nat, k < 4 → t.memRead8 (a + BitVec.ofNat 32 k) = v.extractLsb' (8 * k) 8) ∧
    t.memRead16 a = v.extractLsb' 0 16 ∧ t.memRead32 a = v ∧
    (a.toNat % 4 = 0 → (t.continueTo a).fetchTrap = none ∧ (t.continueTo a).fetchWord = v)

/-! ### Control transfer (42_control_transfer.md) -/

/-- The six branches complete in every state and change only pc: by the signed offset if the condition holds, else by 4, modulo
2^32; no target is checked (R114, R600–R602, R610–R615). -/
def Obligations.BranchesMovePcOnly : Prop :=
  ∀ (s : State) (rs1 rs2 : RegIdx) (offset : BitVec 13),
    (∃ t, exec (.beq rs1 rs2 offset) s = .next t ∧ OnlyPcChanged s t ∧
      (t.pc.toNat : Int) = (s.pc.toNat + if s.reg rs1 = s.reg rs2 then offset.toInt else 4) % 2 ^ 32) ∧
    (∃ t, exec (.bne rs1 rs2 offset) s = .next t ∧ OnlyPcChanged s t ∧
      (t.pc.toNat : Int) = (s.pc.toNat + if s.reg rs1 ≠ s.reg rs2 then offset.toInt else 4) % 2 ^ 32) ∧
    (∃ t, exec (.blt rs1 rs2 offset) s = .next t ∧ OnlyPcChanged s t ∧
      (t.pc.toNat : Int) = (s.pc.toNat + if (s.reg rs1).toInt < (s.reg rs2).toInt then offset.toInt else 4) % 2 ^ 32) ∧
    (∃ t, exec (.bge rs1 rs2 offset) s = .next t ∧ OnlyPcChanged s t ∧
      (t.pc.toNat : Int) = (s.pc.toNat + if (s.reg rs2).toInt ≤ (s.reg rs1).toInt then offset.toInt else 4) % 2 ^ 32) ∧
    (∃ t, exec (.bltu rs1 rs2 offset) s = .next t ∧ OnlyPcChanged s t ∧
      (t.pc.toNat : Int) = (s.pc.toNat + if (s.reg rs1).toNat < (s.reg rs2).toNat then offset.toInt else 4) % 2 ^ 32) ∧
    (∃ t, exec (.bgeu rs1 rs2 offset) s = .next t ∧ OnlyPcChanged s t ∧
      (t.pc.toNat : Int) = (s.pc.toNat + if (s.reg rs2).toNat ≤ (s.reg rs1).toNat then offset.toInt else 4) % 2 ^ 32)

/-- JAL and JALR complete in every state: the link pc + 4 goes to rd, JAL moves pc by its signed offset, and JALR takes the old
x[rs1] + imm modulo 2^32 with bit 0 cleared; no target is checked (R601, R602, R620, R621). -/
def Obligations.JumpsLinkAndTransfer : Prop :=
  ∀ (s : State) (rd rs1 : RegIdx) (offset : BitVec 21) (imm : BitVec 12),
    (∃ t v, exec (.jal rd offset) s = .next t ∧ OnlyWroteReg s t rd v ∧ v.toNat = (s.pc.toNat + 4) % 2 ^ 32 ∧
      (t.pc.toNat : Int) = (s.pc.toNat + offset.toInt) % 2 ^ 32) ∧
    (∃ t v, exec (.jalr rd rs1 imm) s = .next t ∧ OnlyWroteReg s t rd v ∧ v.toNat = (s.pc.toNat + 4) % 2 ^ 32 ∧
      (t.pc.toNat : Int) = ((s.reg rs1).toNat + imm.toInt) % 2 ^ 32 - ((s.reg rs1).toNat + imm.toInt) % 2)

/-! ### System instructions (44_system.md) -/

/-- ECALL and EBREAK complete in every state: the block is Halted with their reason and nothing else changes in execute (R800,
R810, R811).
It rests on the spec's own decision D20. -/
def Obligations.EcallAndEbreakHalt : Prop :=
  ∀ s : State,
    exec .ecall s = .next { s with runState := .halted .ecall } ∧
    exec .ebreak s = .next { s with runState := .halted .ebreak }

/-- The six CSR instructions complete at every address of CSR_IMPL: rd gets the old value and the entry the written, set or
cleared one, bit by bit, with zimm zero-extended; no other entry changes (R820, R822–R827).
It rests on the spec's own decisions D12, D13. -/
def Obligations.CsrInstructionsReadModifyWrite : Prop :=
  ∀ (s : State) (rd rs1 : RegIdx) (z : BitVec 5) (csr : CsrAddr) (old : Word), s.csr? csr = some old →
    (∃ t, exec (.csrrw rd rs1 csr) s = .next t ∧ CsrEffect s t rd csr old (s.reg rs1)) ∧
    (∃ t v, exec (.csrrs rd rs1 csr) s = .next t ∧ CsrEffect s t rd csr old v ∧
      ∀ k : Nat, k < 32 → v.getLsbD k = (old.getLsbD k || (s.reg rs1).getLsbD k)) ∧
    (∃ t v, exec (.csrrc rd rs1 csr) s = .next t ∧ CsrEffect s t rd csr old v ∧
      ∀ k : Nat, k < 32 → v.getLsbD k = (old.getLsbD k && !(s.reg rs1).getLsbD k)) ∧
    (∃ t v, exec (.csrrwi rd z csr) s = .next t ∧ CsrEffect s t rd csr old v ∧ v.toNat = z.toNat) ∧
    (∃ t v, exec (.csrrsi rd z csr) s = .next t ∧ CsrEffect s t rd csr old v ∧
      ∀ k : Nat, k < 32 → v.getLsbD k = (old.getLsbD k || z.getLsbD k)) ∧
    (∃ t v, exec (.csrrci rd z csr) s = .next t ∧ CsrEffect s t rd csr old v ∧
      ∀ k : Nat, k < 32 → v.getLsbD k = (old.getLsbD k && !z.getLsbD k))

/-- R821: at an address outside CSR_IMPL a CSR instruction changes nothing but pc; rd keeps its old value.
It rests on the spec's own decision D14. -/
def Obligations.UnsupportedCsrIsNoOperation : Prop :=
  ∀ (s t : State) (i : Instr) (rd rs1 : RegIdx) (z : BitVec 5) (a : CsrAddr), s.Inv →
    a ∉ s.cfg.csrInit.map (fun e => e.1) →
    (i = .csrrw rd rs1 a ∨ i = .csrrs rd rs1 a ∨ i = .csrrc rd rs1 a ∨ i = .csrrwi rd z a ∨ i = .csrrsi rd z a ∨
      i = .csrrci rd z a) →
    t = { s with pc := s.pc + 4#32 } → exec i s = .next t ∧ t.reg rd = s.reg rd

/-- FENCE and FENCE.I: under FENCE_DECODE = Nop they complete in every state and move only pc, and every other MISC-MEM word is
ILLEGAL; under Illegal every MISC-MEM word is ILLEGAL (R226, R229, R330, R830, R831).
It rests on the spec's own decision D11. -/
def Obligations.FencesAreNopsOrIllegal : Prop :=
  (∀ (s : State) (rd rs1 : RegIdx) (f : BitVec 12),
    exec (.fence rd rs1 f) s = .next { s with pc := s.pc + 4#32 } ∧
    exec (.fenceI rd rs1 f) s = .next { s with pc := s.pc + 4#32 }) ∧
  ∀ w : Word, w.extractLsb' 0 7 = 0b0001111#7 →
    decode .illegal w = .illegal w ∧
    (w.extractLsb' 12 3 = 0b000#3 → ∃ rd rs1 f, decode .nop w = .instr (.fence rd rs1 f)) ∧
    (w.extractLsb' 12 3 = 0b001#3 → ∃ rd rs1 f, decode .nop w = .instr (.fenceI rd rs1 f)) ∧
    (w.extractLsb' 12 3 ≠ 0b000#3 → w.extractLsb' 12 3 ≠ 0b001#3 → decode .nop w = .illegal w)
end

