-- ==== Sys2Proof/Laws/State.lean ====
section
/-! SUPPORT. What each update of the state does to each field, so that no proof unfolds a record update. -/

namespace Sys2Proof.Machine

/-! ### State.setCsr -/

@[simp] theorem State.setCsr_cfg (s : State) (a : CsrAddr) (v : Word) : (s.setCsr a v).cfg = s.cfg := rfl
@[simp] theorem State.setCsr_regs (s : State) (a : CsrAddr) (v : Word) : (s.setCsr a v).regs = s.regs := rfl
@[simp] theorem State.setCsr_pc (s : State) (a : CsrAddr) (v : Word) : (s.setCsr a v).pc = s.pc := rfl
@[simp] theorem State.setCsr_mem (s : State) (a : CsrAddr) (v : Word) : (s.setCsr a v).mem = s.mem := rfl
@[simp] theorem State.setCsr_csrs (s : State) (a : CsrAddr) (v : Word) : (s.setCsr a v).csrs = s.csrs.put a v := rfl
@[simp] theorem State.setCsr_runState (s : State) (a : CsrAddr) (v : Word) : (s.setCsr a v).runState = s.runState := rfl
@[simp] theorem State.setCsr_retired (s : State) (a : CsrAddr) (v : Word) : (s.setCsr a v).retired = s.retired := rfl
@[simp] theorem State.setCsr_warnings (s : State) (a : CsrAddr) (v : Word) : (s.setCsr a v).warnings = s.warnings := rfl
@[simp] theorem State.setCsr_trace (s : State) (a : CsrAddr) (v : Word) : (s.setCsr a v).trace = s.trace := rfl

/-! ### State.continueTo -/

@[simp] theorem State.continueTo_cfg (s : State) (npc : Word) : (s.continueTo npc).cfg = s.cfg := rfl
@[simp] theorem State.continueTo_regs (s : State) (npc : Word) : (s.continueTo npc).regs = s.regs := rfl
@[simp] theorem State.continueTo_pc (s : State) (npc : Word) : (s.continueTo npc).pc = npc := rfl
@[simp] theorem State.continueTo_mem (s : State) (npc : Word) : (s.continueTo npc).mem = s.mem := rfl
@[simp] theorem State.continueTo_csrs (s : State) (npc : Word) : (s.continueTo npc).csrs = s.csrs := rfl
@[simp] theorem State.continueTo_runState (s : State) (npc : Word) : (s.continueTo npc).runState = s.runState := rfl
@[simp] theorem State.continueTo_retired (s : State) (npc : Word) : (s.continueTo npc).retired = s.retired := rfl
@[simp] theorem State.continueTo_warnings (s : State) (npc : Word) : (s.continueTo npc).warnings = s.warnings := rfl
@[simp] theorem State.continueTo_trace (s : State) (npc : Word) : (s.continueTo npc).trace = s.trace := rfl

/-! ### State.haltWith -/

@[simp] theorem State.haltWith_cfg (s : State) (r : HaltReason) : (s.haltWith r).cfg = s.cfg := rfl
@[simp] theorem State.haltWith_regs (s : State) (r : HaltReason) : (s.haltWith r).regs = s.regs := rfl
@[simp] theorem State.haltWith_pc (s : State) (r : HaltReason) : (s.haltWith r).pc = s.pc := rfl
@[simp] theorem State.haltWith_mem (s : State) (r : HaltReason) : (s.haltWith r).mem = s.mem := rfl
@[simp] theorem State.haltWith_csrs (s : State) (r : HaltReason) : (s.haltWith r).csrs = s.csrs := rfl
@[simp] theorem State.haltWith_runState (s : State) (r : HaltReason) : (s.haltWith r).runState = .halted r := rfl
@[simp] theorem State.haltWith_retired (s : State) (r : HaltReason) : (s.haltWith r).retired = s.retired := rfl
@[simp] theorem State.haltWith_warnings (s : State) (r : HaltReason) : (s.haltWith r).warnings = s.warnings := rfl
@[simp] theorem State.haltWith_trace (s : State) (r : HaltReason) : (s.haltWith r).trace = s.trace := rfl

/-! ### State.takeTrap -/

@[simp] theorem State.takeTrap_cfg (s : State) (t : Trap) : (s.takeTrap t).cfg = s.cfg := rfl
@[simp] theorem State.takeTrap_regs (s : State) (t : Trap) : (s.takeTrap t).regs = s.regs := rfl
@[simp] theorem State.takeTrap_pc (s : State) (t : Trap) : (s.takeTrap t).pc = s.pc := rfl
@[simp] theorem State.takeTrap_mem (s : State) (t : Trap) : (s.takeTrap t).mem = s.mem := rfl
@[simp] theorem State.takeTrap_csrs (s : State) (t : Trap) : (s.takeTrap t).csrs = s.csrs := rfl
@[simp] theorem State.takeTrap_runState (s : State) (t : Trap) : (s.takeTrap t).runState = .trapped t := rfl
@[simp] theorem State.takeTrap_retired (s : State) (t : Trap) : (s.takeTrap t).retired = s.retired := rfl
@[simp] theorem State.takeTrap_warnings (s : State) (t : Trap) : (s.takeTrap t).warnings = s.warnings := rfl
@[simp] theorem State.takeTrap_trace (s : State) (t : Trap) : (s.takeTrap t).trace = s.trace := rfl

/-! ### State.retire -/

@[simp] theorem State.retire_cfg (s : State) : (s.retire).cfg = s.cfg := rfl
@[simp] theorem State.retire_regs (s : State) : (s.retire).regs = s.regs := rfl
@[simp] theorem State.retire_pc (s : State) : (s.retire).pc = s.pc := rfl
@[simp] theorem State.retire_mem (s : State) : (s.retire).mem = s.mem := rfl
@[simp] theorem State.retire_csrs (s : State) : (s.retire).csrs = s.csrs := rfl
@[simp] theorem State.retire_runState (s : State) : (s.retire).runState =
    if s.runState = .running ∧ limitReached s.cfg.execLimit (s.retired + 1#64) then .halted .limitReached
    else s.runState := rfl
@[simp] theorem State.retire_retired (s : State) : (s.retire).retired = s.retired + 1#64 := rfl
@[simp] theorem State.retire_warnings (s : State) : (s.retire).warnings = s.warnings := rfl
@[simp] theorem State.retire_trace (s : State) : (s.retire).trace = s.trace := rfl

/-! ### State.setReg -/

@[simp] theorem State.setReg_cfg (s : State) (i : RegIdx) (v : Word) : (s.setReg i v).cfg = s.cfg := by
  unfold State.setReg; split <;> rfl
@[simp] theorem State.setReg_pc (s : State) (i : RegIdx) (v : Word) : (s.setReg i v).pc = s.pc := by
  unfold State.setReg; split <;> rfl
@[simp] theorem State.setReg_mem (s : State) (i : RegIdx) (v : Word) : (s.setReg i v).mem = s.mem := by
  unfold State.setReg; split <;> rfl
@[simp] theorem State.setReg_csrs (s : State) (i : RegIdx) (v : Word) : (s.setReg i v).csrs = s.csrs := by
  unfold State.setReg; split <;> rfl
@[simp] theorem State.setReg_runState (s : State) (i : RegIdx) (v : Word) : (s.setReg i v).runState = s.runState := by
  unfold State.setReg; split <;> rfl
@[simp] theorem State.setReg_retired (s : State) (i : RegIdx) (v : Word) : (s.setReg i v).retired = s.retired := by
  unfold State.setReg; split <;> rfl
@[simp] theorem State.setReg_warnings (s : State) (i : RegIdx) (v : Word) : (s.setReg i v).warnings = s.warnings := by
  unfold State.setReg; split <;> rfl
@[simp] theorem State.setReg_trace (s : State) (i : RegIdx) (v : Word) : (s.setReg i v).trace = s.trace := by
  unfold State.setReg; split <;> rfl

/-! ### State.writeByte -/

@[simp] theorem State.writeByte_cfg (s : State) (a : Nat) (b : Byte) : (s.writeByte a b).cfg = s.cfg := by
  unfold State.writeByte; split <;> rfl
@[simp] theorem State.writeByte_regs (s : State) (a : Nat) (b : Byte) : (s.writeByte a b).regs = s.regs := by
  unfold State.writeByte; split <;> rfl
@[simp] theorem State.writeByte_pc (s : State) (a : Nat) (b : Byte) : (s.writeByte a b).pc = s.pc := by
  unfold State.writeByte; split <;> rfl
@[simp] theorem State.writeByte_csrs (s : State) (a : Nat) (b : Byte) : (s.writeByte a b).csrs = s.csrs := by
  unfold State.writeByte; split <;> rfl
@[simp] theorem State.writeByte_runState (s : State) (a : Nat) (b : Byte) : (s.writeByte a b).runState = s.runState := by
  unfold State.writeByte; split <;> rfl
@[simp] theorem State.writeByte_retired (s : State) (a : Nat) (b : Byte) : (s.writeByte a b).retired = s.retired := by
  unfold State.writeByte; split <;> rfl
@[simp] theorem State.writeByte_warnings (s : State) (a : Nat) (b : Byte) : (s.writeByte a b).warnings = s.warnings := by
  unfold State.writeByte; split <;> rfl
@[simp] theorem State.writeByte_trace (s : State) (a : Nat) (b : Byte) : (s.writeByte a b).trace = s.trace := by
  unfold State.writeByte; split <;> rfl

/-! ### State.warnIfOut -/

@[simp] theorem State.warnIfOut_cfg (s : State) (dir : AccessDir) (a : Word) (w : Width) : (s.warnIfOut dir a w).cfg = s.cfg := by
  unfold State.warnIfOut; split <;> rfl
@[simp] theorem State.warnIfOut_regs (s : State) (dir : AccessDir) (a : Word) (w : Width) : (s.warnIfOut dir a w).regs = s.regs := by
  unfold State.warnIfOut; split <;> rfl
@[simp] theorem State.warnIfOut_pc (s : State) (dir : AccessDir) (a : Word) (w : Width) : (s.warnIfOut dir a w).pc = s.pc := by
  unfold State.warnIfOut; split <;> rfl
@[simp] theorem State.warnIfOut_mem (s : State) (dir : AccessDir) (a : Word) (w : Width) : (s.warnIfOut dir a w).mem = s.mem := by
  unfold State.warnIfOut; split <;> rfl
@[simp] theorem State.warnIfOut_csrs (s : State) (dir : AccessDir) (a : Word) (w : Width) : (s.warnIfOut dir a w).csrs = s.csrs := by
  unfold State.warnIfOut; split <;> rfl
@[simp] theorem State.warnIfOut_runState (s : State) (dir : AccessDir) (a : Word) (w : Width) : (s.warnIfOut dir a w).runState = s.runState := by
  unfold State.warnIfOut; split <;> rfl
@[simp] theorem State.warnIfOut_retired (s : State) (dir : AccessDir) (a : Word) (w : Width) : (s.warnIfOut dir a w).retired = s.retired := by
  unfold State.warnIfOut; split <;> rfl
@[simp] theorem State.warnIfOut_trace (s : State) (dir : AccessDir) (a : Word) (w : Width) : (s.warnIfOut dir a w).trace = s.trace := by
  unfold State.warnIfOut; split <;> rfl

/-! ### State.emitTrace -/

@[simp] theorem State.emitTrace_cfg (s : State) (w : Word) : (s.emitTrace w).cfg = s.cfg := by
  unfold State.emitTrace; split <;> rfl
@[simp] theorem State.emitTrace_regs (s : State) (w : Word) : (s.emitTrace w).regs = s.regs := by
  unfold State.emitTrace; split <;> rfl
@[simp] theorem State.emitTrace_pc (s : State) (w : Word) : (s.emitTrace w).pc = s.pc := by
  unfold State.emitTrace; split <;> rfl
@[simp] theorem State.emitTrace_mem (s : State) (w : Word) : (s.emitTrace w).mem = s.mem := by
  unfold State.emitTrace; split <;> rfl
@[simp] theorem State.emitTrace_csrs (s : State) (w : Word) : (s.emitTrace w).csrs = s.csrs := by
  unfold State.emitTrace; split <;> rfl
@[simp] theorem State.emitTrace_runState (s : State) (w : Word) : (s.emitTrace w).runState = s.runState := by
  unfold State.emitTrace; split <;> rfl
@[simp] theorem State.emitTrace_retired (s : State) (w : Word) : (s.emitTrace w).retired = s.retired := by
  unfold State.emitTrace; split <;> rfl
@[simp] theorem State.emitTrace_warnings (s : State) (w : Word) : (s.emitTrace w).warnings = s.warnings := by
  unfold State.emitTrace; split <;> rfl

@[simp] theorem State.warnIfOut_warnings (s : State) (dir : AccessDir) (a : Word) (w : Width) :
    (s.warnIfOut dir a w).warnings = if s.outOfRange a w then s.warnings ++ [⟨dir, a, w⟩] else s.warnings := by
  unfold State.warnIfOut; split <;> rfl

@[simp] theorem State.emitTrace_trace (s : State) (w : Word) :
    (s.emitTrace w).trace = if s.cfg.traceEn then s.trace ++ [⟨s.pc, w⟩] else s.trace := by
  unfold State.emitTrace; split <;> rfl

/-! ### State.writeBytes: a run of byte writes changes nothing but memory -/

@[simp] theorem State.writeBytes_cfg (s : State) (a : Nat) (bs : List Byte) : (s.writeBytes a bs).cfg = s.cfg := by
  induction bs generalizing s a with
  | nil => rfl
  | cons b bs ih => simp [State.writeBytes, ih]
@[simp] theorem State.writeBytes_regs (s : State) (a : Nat) (bs : List Byte) : (s.writeBytes a bs).regs = s.regs := by
  induction bs generalizing s a with
  | nil => rfl
  | cons b bs ih => simp [State.writeBytes, ih]
@[simp] theorem State.writeBytes_pc (s : State) (a : Nat) (bs : List Byte) : (s.writeBytes a bs).pc = s.pc := by
  induction bs generalizing s a with
  | nil => rfl
  | cons b bs ih => simp [State.writeBytes, ih]
@[simp] theorem State.writeBytes_csrs (s : State) (a : Nat) (bs : List Byte) : (s.writeBytes a bs).csrs = s.csrs := by
  induction bs generalizing s a with
  | nil => rfl
  | cons b bs ih => simp [State.writeBytes, ih]
@[simp] theorem State.writeBytes_runState (s : State) (a : Nat) (bs : List Byte) : (s.writeBytes a bs).runState = s.runState := by
  induction bs generalizing s a with
  | nil => rfl
  | cons b bs ih => simp [State.writeBytes, ih]
@[simp] theorem State.writeBytes_retired (s : State) (a : Nat) (bs : List Byte) : (s.writeBytes a bs).retired = s.retired := by
  induction bs generalizing s a with
  | nil => rfl
  | cons b bs ih => simp [State.writeBytes, ih]
@[simp] theorem State.writeBytes_warnings (s : State) (a : Nat) (bs : List Byte) : (s.writeBytes a bs).warnings = s.warnings := by
  induction bs generalizing s a with
  | nil => rfl
  | cons b bs ih => simp [State.writeBytes, ih]
@[simp] theorem State.writeBytes_trace (s : State) (a : Nat) (bs : List Byte) : (s.writeBytes a bs).trace = s.trace := by
  induction bs generalizing s a with
  | nil => rfl
  | cons b bs ih => simp [State.writeBytes, ih]

/-! ### State.memWrite -/

@[simp] theorem State.memWrite_cfg (s : State) (a : Word) (w : Width) (v : Word) : (s.memWrite a w v).cfg = s.cfg := by
  simp [State.memWrite]
@[simp] theorem State.memWrite_regs (s : State) (a : Word) (w : Width) (v : Word) : (s.memWrite a w v).regs = s.regs := by
  simp [State.memWrite]
@[simp] theorem State.memWrite_pc (s : State) (a : Word) (w : Width) (v : Word) : (s.memWrite a w v).pc = s.pc := by
  simp [State.memWrite]
@[simp] theorem State.memWrite_csrs (s : State) (a : Word) (w : Width) (v : Word) : (s.memWrite a w v).csrs = s.csrs := by
  simp [State.memWrite]
@[simp] theorem State.memWrite_runState (s : State) (a : Word) (w : Width) (v : Word) : (s.memWrite a w v).runState = s.runState := by
  simp [State.memWrite]
@[simp] theorem State.memWrite_retired (s : State) (a : Word) (w : Width) (v : Word) : (s.memWrite a w v).retired = s.retired := by
  simp [State.memWrite]
@[simp] theorem State.memWrite_trace (s : State) (a : Word) (w : Width) (v : Word) : (s.memWrite a w v).trace = s.trace := by
  simp [State.memWrite]

/-! ### Reading a register, a byte, a CSR or the capacity depends on one field -/

theorem State.reg_congr {s t : State} (h : t.regs = s.regs) (i : RegIdx) : t.reg i = s.reg i := by
  simp [State.reg, h]

theorem State.capacity_congr {s t : State} (h : t.cfg = s.cfg) : t.capacity = s.capacity := by
  simp [State.capacity, h]

theorem State.readByte_congr {s t : State} (hc : t.cfg = s.cfg) (hm : t.mem = s.mem) (a : Nat) :
    t.readByte a = s.readByte a := by
  unfold State.readByte State.capacity; rw [hc, hm]

theorem State.csr?_congr {s t : State} (h : t.csrs = s.csrs) (a : CsrAddr) : t.csr? a = s.csr? a := by
  simp [State.csr?, h]

@[simp] theorem State.setCsr_capacity (s : State) (a : CsrAddr) (v : Word) : (s.setCsr a v).capacity = s.capacity :=
  State.capacity_congr (by simp)
@[simp] theorem State.setCsr_reg (s : State) (a : CsrAddr) (v : Word) (q : RegIdx) : (s.setCsr a v).reg q = s.reg q :=
  State.reg_congr (by simp) q
@[simp] theorem State.setCsr_readByte (s : State) (a : CsrAddr) (v : Word) (k : Nat) : (s.setCsr a v).readByte k = s.readByte k :=
  State.readByte_congr (by simp) (by simp) k
@[simp] theorem State.continueTo_capacity (s : State) (npc : Word) : (s.continueTo npc).capacity = s.capacity :=
  State.capacity_congr (by simp)
@[simp] theorem State.continueTo_reg (s : State) (npc : Word) (q : RegIdx) : (s.continueTo npc).reg q = s.reg q :=
  State.reg_congr (by simp) q
@[simp] theorem State.continueTo_readByte (s : State) (npc : Word) (k : Nat) : (s.continueTo npc).readByte k = s.readByte k :=
  State.readByte_congr (by simp) (by simp) k
@[simp] theorem State.continueTo_csr? (s : State) (npc : Word) (k : CsrAddr) : (s.continueTo npc).csr? k = s.csr? k :=
  State.csr?_congr (by simp) k
@[simp] theorem State.haltWith_capacity (s : State) (r : HaltReason) : (s.haltWith r).capacity = s.capacity :=
  State.capacity_congr (by simp)
@[simp] theorem State.haltWith_reg (s : State) (r : HaltReason) (q : RegIdx) : (s.haltWith r).reg q = s.reg q :=
  State.reg_congr (by simp) q
@[simp] theorem State.haltWith_readByte (s : State) (r : HaltReason) (k : Nat) : (s.haltWith r).readByte k = s.readByte k :=
  State.readByte_congr (by simp) (by simp) k
@[simp] theorem State.haltWith_csr? (s : State) (r : HaltReason) (k : CsrAddr) : (s.haltWith r).csr? k = s.csr? k :=
  State.csr?_congr (by simp) k
@[simp] theorem State.takeTrap_capacity (s : State) (t : Trap) : (s.takeTrap t).capacity = s.capacity :=
  State.capacity_congr (by simp)
@[simp] theorem State.takeTrap_reg (s : State) (t : Trap) (q : RegIdx) : (s.takeTrap t).reg q = s.reg q :=
  State.reg_congr (by simp) q
@[simp] theorem State.takeTrap_readByte (s : State) (t : Trap) (k : Nat) : (s.takeTrap t).readByte k = s.readByte k :=
  State.readByte_congr (by simp) (by simp) k
@[simp] theorem State.takeTrap_csr? (s : State) (t : Trap) (k : CsrAddr) : (s.takeTrap t).csr? k = s.csr? k :=
  State.csr?_congr (by simp) k
@[simp] theorem State.retire_capacity (s : State) : (s.retire).capacity = s.capacity :=
  State.capacity_congr (by simp)
@[simp] theorem State.retire_reg (s : State) (q : RegIdx) : (s.retire).reg q = s.reg q :=
  State.reg_congr (by simp) q
@[simp] theorem State.retire_readByte (s : State) (k : Nat) : (s.retire).readByte k = s.readByte k :=
  State.readByte_congr (by simp) (by simp) k
@[simp] theorem State.retire_csr? (s : State) (k : CsrAddr) : (s.retire).csr? k = s.csr? k :=
  State.csr?_congr (by simp) k
@[simp] theorem State.setReg_capacity (s : State) (i : RegIdx) (v : Word) : (s.setReg i v).capacity = s.capacity :=
  State.capacity_congr (by simp)
@[simp] theorem State.setReg_readByte (s : State) (i : RegIdx) (v : Word) (k : Nat) : (s.setReg i v).readByte k = s.readByte k :=
  State.readByte_congr (by simp) (by simp) k
@[simp] theorem State.setReg_csr? (s : State) (i : RegIdx) (v : Word) (k : CsrAddr) : (s.setReg i v).csr? k = s.csr? k :=
  State.csr?_congr (by simp) k
@[simp] theorem State.writeByte_capacity (s : State) (a : Nat) (b : Byte) : (s.writeByte a b).capacity = s.capacity :=
  State.capacity_congr (by simp)
@[simp] theorem State.writeByte_reg (s : State) (a : Nat) (b : Byte) (q : RegIdx) : (s.writeByte a b).reg q = s.reg q :=
  State.reg_congr (by simp) q
@[simp] theorem State.writeByte_csr? (s : State) (a : Nat) (b : Byte) (k : CsrAddr) : (s.writeByte a b).csr? k = s.csr? k :=
  State.csr?_congr (by simp) k
@[simp] theorem State.warnIfOut_capacity (s : State) (dir : AccessDir) (a : Word) (w : Width) : (s.warnIfOut dir a w).capacity = s.capacity :=
  State.capacity_congr (by simp)
@[simp] theorem State.warnIfOut_reg (s : State) (dir : AccessDir) (a : Word) (w : Width) (q : RegIdx) : (s.warnIfOut dir a w).reg q = s.reg q :=
  State.reg_congr (by simp) q
@[simp] theorem State.warnIfOut_readByte (s : State) (dir : AccessDir) (a : Word) (w : Width) (k : Nat) : (s.warnIfOut dir a w).readByte k = s.readByte k :=
  State.readByte_congr (by simp) (by simp) k
@[simp] theorem State.warnIfOut_csr? (s : State) (dir : AccessDir) (a : Word) (w : Width) (k : CsrAddr) : (s.warnIfOut dir a w).csr? k = s.csr? k :=
  State.csr?_congr (by simp) k
@[simp] theorem State.emitTrace_capacity (s : State) (w : Word) : (s.emitTrace w).capacity = s.capacity :=
  State.capacity_congr (by simp)
@[simp] theorem State.emitTrace_reg (s : State) (w : Word) (q : RegIdx) : (s.emitTrace w).reg q = s.reg q :=
  State.reg_congr (by simp) q
@[simp] theorem State.emitTrace_readByte (s : State) (w : Word) (k : Nat) : (s.emitTrace w).readByte k = s.readByte k :=
  State.readByte_congr (by simp) (by simp) k
@[simp] theorem State.emitTrace_csr? (s : State) (w : Word) (k : CsrAddr) : (s.emitTrace w).csr? k = s.csr? k :=
  State.csr?_congr (by simp) k
@[simp] theorem State.writeBytes_capacity (s : State) (a : Nat) (bs : List Byte) : (s.writeBytes a bs).capacity = s.capacity :=
  State.capacity_congr (by simp)
@[simp] theorem State.writeBytes_reg (s : State) (a : Nat) (bs : List Byte) (q : RegIdx) : (s.writeBytes a bs).reg q = s.reg q :=
  State.reg_congr (by simp) q
@[simp] theorem State.writeBytes_csr? (s : State) (a : Nat) (bs : List Byte) (k : CsrAddr) : (s.writeBytes a bs).csr? k = s.csr? k :=
  State.csr?_congr (by simp) k
@[simp] theorem State.memWrite_capacity (s : State) (a : Word) (w : Width) (v : Word) : (s.memWrite a w v).capacity = s.capacity :=
  State.capacity_congr (by simp)
@[simp] theorem State.memWrite_reg (s : State) (a : Word) (w : Width) (v : Word) (q : RegIdx) : (s.memWrite a w v).reg q = s.reg q :=
  State.reg_congr (by simp) q
@[simp] theorem State.memWrite_csr? (s : State) (a : Word) (w : Width) (v : Word) (k : CsrAddr) : (s.memWrite a w v).csr? k = s.csr? k :=
  State.csr?_congr (by simp) k

end Sys2Proof.Machine
end

