-- ==== Sys2Proof/Laws/Csr.lean ====
section
/-! SUPPORT. The CSR store (10_state.md R125): read after write, other entries alone, and the set of addresses never changes. -/

namespace Sys2Proof.Machine

/-- All that writing an entry does to reading one; an address outside CSR_IMPL stays outside. -/
theorem CsrStore.get?_put (m : CsrStore) (a k : CsrAddr) (v : Word) :
    CsrStore.get? k (CsrStore.put a v m) = if k = a then (CsrStore.get? k m).map (fun _ => v) else CsrStore.get? k m := by
  induction m with
  | nil => simp [CsrStore.put, CsrStore.get?]
  | cons e rest ih =>
    obtain ⟨x, old⟩ := e
    simp only [CsrStore.put, CsrStore.get?, ih]
    by_cases hx : x = k
    · subst hx; by_cases hk : x = a <;> simp [hk]
    · simp [hx]

@[simp] theorem CsrStore.put_addresses (m : CsrStore) (a : CsrAddr) (v : Word) :
    (CsrStore.put a v m).map (fun e => e.1) = m.map (fun e => e.1) := by
  induction m with
  | nil => rfl
  | cons e rest ih => obtain ⟨x, old⟩ := e; simp [CsrStore.put, ih]

theorem State.setCsr_csr? (s : State) (a k : CsrAddr) (v : Word) :
    (s.setCsr a v).csr? k = if k = a then (s.csr? k).map (fun _ => v) else s.csr? k :=
  CsrStore.get?_put s.csrs a k v

/-- An address has an entry exactly when it is in CSR_IMPL. -/
theorem CsrStore.get?_isSome (m : CsrStore) (a : CsrAddr) : (CsrStore.get? a m).isSome = true ↔ a ∈ m.map (fun e => e.1) := by
  induction m with
  | nil => simp [CsrStore.get?]
  | cons e rest ih =>
    obtain ⟨x, v⟩ := e
    by_cases hx : x = a
    · simp [CsrStore.get?, hx]
    · simp only [CsrStore.get?, hx, if_false, ih, List.map_cons, List.mem_cons]
      exact ⟨.inr, fun h => h.resolve_left fun e => hx e.symm⟩

end Sys2Proof.Machine
end

