-- ==== Sys2Proof/Laws/Decode.lean ====
section
/-! SUPPORT. What each inner test of the decoder can answer (30_encoding.md R322–R330): the instruction whose encoding has the
fields it was given. One lemma a major opcode, which proofs about `decode` cite instead of unfolding it. -/

namespace Sys2Proof

/-- The eight values of funct3, for case analysis. -/
theorem funct3_cases (x : BitVec 3) :
    x = 0#3 ∨ x = 1#3 ∨ x = 2#3 ∨ x = 3#3 ∨ x = 4#3 ∨ x = 5#3 ∨ x = 6#3 ∨ x = 7#3 := by
  revert x; decide

/-- The instruction stands for an encoding and exists under either setting of FENCE_DECODE. -/
abbrev Instr.Legal (i : Instr) : Prop := i.wf = true ∧ ∀ fd, i.availableUnder fd = true

theorem decodeOp_eq_some {f7 : BitVec 7} {f3 : BitVec 3} {rd rs1 rs2 : RegIdx} {i : Instr}
    (h : decodeOp f7 f3 rd rs1 rs2 = some i) : encode i = encR f7 rs2 rs1 f3 rd 0b0110011#7 ∧ i.Legal := by
  unfold decodeOp at h
  split at h
  · next h7 =>
    subst h7
    rcases funct3_cases f3 with rfl | rfl | rfl | rfl | rfl | rfl | rfl | rfl <;> simp at h <;> subst h <;>
      exact ⟨rfl, rfl, fun _ => rfl⟩
  · split at h
    · next h7 =>
      subst h7
      rcases funct3_cases f3 with rfl | rfl | rfl | rfl | rfl | rfl | rfl | rfl <;> simp at h <;> subst h <;>
        exact ⟨rfl, rfl, fun _ => rfl⟩
    · cases h

theorem decodeOpImm_eq_some {f7 : BitVec 7} {f3 : BitVec 3} {rd rs1 : RegIdx} {imm : BitVec 12} {shamt : BitVec 5}
    {i : Instr} (h : decodeOpImm f7 f3 rd rs1 imm shamt = some i) :
    (encode i = encR f7 shamt rs1 f3 rd 0b0010011#7 ∨ encode i = encI imm rs1 f3 rd 0b0010011#7) ∧ i.Legal := by
  unfold decodeOpImm at h
  rcases funct3_cases f3 with rfl | rfl | rfl | rfl | rfl | rfl | rfl | rfl <;> simp at h
  case inr.inl => obtain ⟨rfl, rfl⟩ := h; exact ⟨.inl rfl, rfl, fun _ => rfl⟩
  case inr.inr.inr.inr.inr.inl =>
    by_cases h0 : f7 = 0#7
    · subst h0; simp at h; subst h; exact ⟨.inl rfl, rfl, fun _ => rfl⟩
    · simp [h0] at h; obtain ⟨rfl, rfl⟩ := h; exact ⟨.inl rfl, rfl, fun _ => rfl⟩
  all_goals subst h; exact ⟨.inr rfl, rfl, fun _ => rfl⟩

theorem decodeLoad_eq_some {f3 : BitVec 3} {rd rs1 : RegIdx} {imm : BitVec 12} {i : Instr}
    (h : decodeLoad f3 rd rs1 imm = some i) : encode i = encI imm rs1 f3 rd 0b0000011#7 ∧ i.Legal := by
  unfold decodeLoad at h
  rcases funct3_cases f3 with rfl | rfl | rfl | rfl | rfl | rfl | rfl | rfl <;> simp at h <;> subst h <;>
    exact ⟨rfl, rfl, fun _ => rfl⟩

theorem decodeStore_eq_some {f3 : BitVec 3} {rs1 rs2 : RegIdx} {imm : BitVec 12} {i : Instr}
    (h : decodeStore f3 rs1 rs2 imm = some i) : encode i = encS imm rs2 rs1 f3 0b0100011#7 ∧ i.Legal := by
  unfold decodeStore at h
  rcases funct3_cases f3 with rfl | rfl | rfl | rfl | rfl | rfl | rfl | rfl <;> simp at h <;> subst h <;>
    exact ⟨rfl, rfl, fun _ => rfl⟩

theorem decodeBranch_eq_some {f3 : BitVec 3} {rs1 rs2 : RegIdx} {offset : BitVec 13} {i : Instr} (h0 : offset[0] = false)
    (h : decodeBranch f3 rs1 rs2 offset = some i) : encode i = encB offset rs2 rs1 f3 0b1100011#7 ∧ i.Legal := by
  unfold decodeBranch at h
  rcases funct3_cases f3 with rfl | rfl | rfl | rfl | rfl | rfl | rfl | rfl <;> simp at h <;> subst h <;>
    exact ⟨rfl, by simp [Instr.wf, h0], fun _ => rfl⟩

theorem decodeSystem_eq_some {w : Word} {f3 : BitVec 3} {rd rs1 : RegIdx} {csr : CsrAddr} {i : Instr}
    (h : decodeSystem w f3 rd rs1 csr = some i) :
    (encode i = w ∨ encode i = encI csr rs1 f3 rd 0b1110011#7) ∧ i.Legal := by
  unfold decodeSystem at h
  split at h
  · next hw => cases h; subst hw; exact ⟨.inl rfl, rfl, fun _ => rfl⟩
  · split at h
    · next hw => cases h; subst hw; exact ⟨.inl rfl, rfl, fun _ => rfl⟩
    · rcases funct3_cases f3 with rfl | rfl | rfl | rfl | rfl | rfl | rfl | rfl <;> simp at h <;> subst h <;>
        exact ⟨.inr rfl, rfl, fun _ => rfl⟩

theorem decodeMiscMem_eq_some {fd : FenceDecode} {f3 : BitVec 3} {rd rs1 : RegIdx} {imm : BitVec 12} {i : Instr}
    (h : decodeMiscMem fd f3 rd rs1 imm = some i) :
    encode i = encI imm rs1 f3 rd 0b0001111#7 ∧ i.wf = true ∧ i.availableUnder fd = true := by
  unfold decodeMiscMem at h
  split at h
  · next c => obtain ⟨rfl, rfl⟩ := c; cases h; exact ⟨rfl, rfl, rfl⟩
  · split at h
    · next c => obtain ⟨rfl, rfl⟩ := c; cases h; exact ⟨rfl, rfl, rfl⟩
    · cases h

/-- `decode` answers an instruction exactly when R321 finds one. -/
theorem decode_eq_instr {fd : FenceDecode} {w : Word} {i : Instr} :
    decode fd w = .instr i ↔ decodeInstr fd w = some i := by
  unfold decode; split <;> simp_all

/-- `decode` answers ILLEGAL exactly when R321 finds no instruction. -/
theorem decode_eq_illegal {fd : FenceDecode} {w : Word} : decode fd w = .illegal w ↔ decodeInstr fd w = none := by
  unfold decode; split <;> simp_all

end Sys2Proof
end

