-- ==== Sys2Proof/Laws/Memory.lean ====
section
/-! SUPPORT. Memory (10_state.md R135, R136; 20_memory.md R205, R206): read after write, every other address alone, and every
operation keeps the canonical form. None of the reading laws needs the canonical form. -/

namespace Sys2Proof.Machine

/-! ### Lists of cells -/

theorem Memory.get_erase (fill : Byte) (m : Memory) (a k : Nat) :
    Memory.get fill k (Memory.erase a m) = if k = a then fill else Memory.get fill k m := by
  induction m with
  | nil => simp [Memory.erase, Memory.get]
  | cons c rest ih =>
    obtain ⟨x, v⟩ := c
    unfold Memory.erase
    split
    · next h => subst h; rw [ih]; by_cases hk : k = x <;> simp [Memory.get, hk, eq_comm]
    · next h =>
      by_cases hx : x = k
      · subst hx; simp [Memory.get, h]
      · simp [Memory.get, hx, ih]

theorem Memory.get_insert (fill : Byte) (m : Memory) (a k : Nat) (b : Byte)
    (hno : ∀ c ∈ m, c.1 ≠ a) :
    Memory.get fill k (Memory.insert a b m) = if k = a then b else Memory.get fill k m := by
  induction m with
  | nil => simp [Memory.insert, Memory.get, eq_comm]
  | cons c rest ih =>
    obtain ⟨x, v⟩ := c
    have hx : x ≠ a := hno (x, v) (by simp)
    unfold Memory.insert
    split
    · simp [Memory.get, eq_comm]
    · simp only [Memory.get]
      rw [ih fun c hc => hno c (by simp [hc])]
      by_cases hk : x = k
      · subst hk; simp [hx]
      · simp [hk]

theorem Memory.mem_erase {m : Memory} {a : Nat} {c : Host.Cell} (h : c ∈ Memory.erase a m) : c ∈ m ∧ c.1 ≠ a := by
  induction m with
  | nil => simp [Memory.erase] at h
  | cons d rest ih =>
    obtain ⟨x, v⟩ := d
    unfold Memory.erase at h
    split at h
    · exact ⟨by simp [(ih h).1], (ih h).2⟩
    · next hx =>
      rcases List.mem_cons.1 h with rfl | h
      · exact ⟨by simp, hx⟩
      · exact ⟨by simp [(ih h).1], (ih h).2⟩

theorem Memory.mem_insert {m : Memory} {a : Nat} {b : Byte} {c : Host.Cell} (h : c ∈ Memory.insert a b m) :
    c = (a, b) ∨ c ∈ m := by
  induction m with
  | nil => simpa [Memory.insert] using h
  | cons d rest ih =>
    obtain ⟨x, v⟩ := d
    unfold Memory.insert at h
    split at h
    · simpa using h
    · rcases List.mem_cons.1 h with rfl | h
      · simp
      · rcases ih h with h | h
        · exact .inl h
        · simp [h]

/-- Reading an address after a write of one: all that `Memory.set` does. -/
theorem Memory.get_set (fill : Byte) (m : Memory) (a k : Nat) (b : Byte) :
    Memory.get fill k (Memory.set fill m a b) = if k = a then b else Memory.get fill k m := by
  unfold Memory.set
  split
  · next h => rw [Memory.get_erase]; simp [h]
  · rw [Memory.get_insert, Memory.get_erase]
    · split <;> rfl
    · exact fun c hc => (Memory.mem_erase hc).2

theorem Memory.erase_sorted {m : Memory} (a : Nat) (h : m.Pairwise fun x y => x.1 < y.1) :
    (Memory.erase a m).Pairwise fun x y => x.1 < y.1 := by
  induction m with
  | nil => simp [Memory.erase]
  | cons c rest ih =>
    obtain ⟨x, v⟩ := c
    rw [List.pairwise_cons] at h
    unfold Memory.erase
    split
    · exact ih h.2
    · exact List.pairwise_cons.2 ⟨fun d hd => h.1 d (Memory.mem_erase hd).1, ih h.2⟩

theorem Memory.insert_sorted {m : Memory} (a : Nat) (b : Byte) (h : m.Pairwise fun x y => x.1 < y.1)
    (hno : ∀ c ∈ m, c.1 ≠ a) : (Memory.insert a b m).Pairwise fun x y => x.1 < y.1 := by
  induction m with
  | nil => simp [Memory.insert]
  | cons c rest ih =>
    obtain ⟨x, v⟩ := c
    have hx : x ≠ a := hno (x, v) (by simp)
    have hrest := List.pairwise_cons.1 h
    unfold Memory.insert
    split
    · next hlt =>
      refine List.pairwise_cons.2 ⟨fun d hd => ?_, h⟩
      rcases List.mem_cons.1 hd with rfl | hd
      · exact hlt
      · exact lt_trans hlt (hrest.1 d hd)
    · next hge =>
      refine List.pairwise_cons.2 ⟨fun d hd => ?_, ih hrest.2 fun c hc => hno c (by simp [hc])⟩
      rcases Memory.mem_insert hd with rfl | hd
      · have : x < a := by omega
        exact this
      · exact hrest.1 d hd

/-- A write below the capacity keeps the canonical form. -/
theorem Memory.set_wf {fill : Byte} {cap : Nat} {m : Memory} {a : Nat} (b : Byte) (h : Memory.wf fill cap m)
    (ha : a < cap) : Memory.wf fill cap (Memory.set fill m a b) := by
  unfold Memory.set
  split
  · exact ⟨Memory.erase_sorted a h.1, fun c hc => h.2 c (Memory.mem_erase hc).1⟩
  · next hb =>
    refine ⟨Memory.insert_sorted a b (Memory.erase_sorted a h.1) fun c hc => (Memory.mem_erase hc).2, fun c hc => ?_⟩
    rcases Memory.mem_insert hc with rfl | hc
    · exact ⟨ha, hb⟩
    · exact h.2 c (Memory.mem_erase hc).1

/-! ### Bytes of the address space -/

/-- All that writing one byte does to reading one: the byte is stored below CAP, and no other address changes. -/
theorem State.writeByte_readByte (s : State) (a k : Nat) (b : Byte) :
    (s.writeByte a b).readByte k = if k = a ∧ a < s.capacity then b else s.readByte k := by
  unfold State.writeByte
  split
  · next h =>
    by_cases hk : k = a
    · subst hk; simp [State.readByte, State.capacity] at *; simp [h, Memory.get_set]
    · simp only [State.readByte, State.capacity, Memory.get_set, hk, if_false, false_and]; rfl
  · next h => simp [h]

/-- A write leaves every address outside its bytes alone. -/
theorem State.writeBytes_readByte_outside (s : State) (a k : Nat) (bs : List Byte)
    (h : k < a ∨ a + bs.length ≤ k) : (s.writeBytes a bs).readByte k = s.readByte k := by
  induction bs generalizing s a with
  | nil => rfl
  | cons b bs ih =>
    simp only [List.length_cons] at h
    rw [State.writeBytes, ih _ _ (by omega), State.writeByte_readByte]
    have : k ≠ a := by omega
    simp [this]

/-- Byte `j` of a write lands at `a + j` if that is below CAP, and reads 0 there otherwise. -/
theorem State.writeBytes_readByte_inside (s : State) (a j : Nat) (bs : List Byte) (h : j < bs.length) :
    (s.writeBytes a bs).readByte (a + j) = if a + j < s.capacity then bs[j] else 0#8 := by
  induction bs generalizing s a j with
  | nil => simp at h
  | cons b bs ih =>
    cases j with
    | zero =>
      rw [State.writeBytes, State.writeBytes_readByte_outside _ _ _ _ (by omega), State.writeByte_readByte]
      by_cases hc : a < s.capacity
      · simp [hc]
      · simp [State.readByte, hc]
    | succ j =>
      have := ih (s.writeByte a b) (a + 1) j (by simpa using h)
      rw [State.writeBytes, show a + (j + 1) = a + 1 + j by omega, this]
      simp

theorem State.writeByte_mem_wf {s : State} (a : Nat) (b : Byte) (h : Memory.wf s.cfg.memFill s.capacity s.mem) :
    Memory.wf s.cfg.memFill s.capacity (s.writeByte a b).mem := by
  unfold State.writeByte
  split
  · next ha => exact Memory.set_wf b h ha
  · exact h

/-- Writing bytes keeps the canonical form of memory. -/
theorem State.writeBytes_mem_wf {s : State} (a : Nat) (bs : List Byte) (h : Memory.wf s.cfg.memFill s.capacity s.mem) :
    Memory.wf s.cfg.memFill s.capacity (s.writeBytes a bs).mem := by
  induction bs generalizing s a with
  | nil => exact h
  | cons b bs ih =>
    have hb := State.writeByte_mem_wf a b h
    simpa [State.writeBytes] using ih (s := s.writeByte a b) (a + 1) (by simpa using hb)

/-- MemWrite keeps the canonical form of memory. -/
theorem State.memWrite_mem_wf {s : State} (a : Word) (w : Width) (v : Word)
    (h : Memory.wf s.cfg.memFill s.capacity s.mem) : Memory.wf s.cfg.memFill s.capacity (s.memWrite a w v).mem := by
  simpa [State.memWrite] using State.writeBytes_mem_wf a.toNat (lowBytes v w) h

@[simp] theorem lowBytes_length (v : Word) (w : Width) : (lowBytes v w).length = w.bytes := by
  cases w <;> rfl

theorem lowBytes_getElem (v : Word) (w : Width) (j : Nat) (h : j < (lowBytes v w).length) :
    (lowBytes v w)[j] = byteOf v j := by
  have hj : j < 4 := lt_of_lt_of_le h (by cases w <;> simp [Width.bytes])
  cases w <;> interval_cases j <;> first | rfl | (simp [Width.bytes] at h)

/-- All that MemWrite does to a byte: byte `j` of the value below CAP, everything else as before (R206). -/
theorem State.memWrite_readByte (s : State) (a : Word) (w : Width) (v : Word) (k : Nat) :
    (s.memWrite a w v).readByte k =
      if a.toNat ≤ k ∧ k < a.toNat + w.bytes then
        if k < s.capacity then byteOf v (k - a.toNat) else 0#8
      else s.readByte k := by
  unfold State.memWrite
  rw [State.warnIfOut_readByte]
  split
  · next h =>
    obtain ⟨j, rfl⟩ := Nat.exists_eq_add_of_le h.1
    rw [State.writeBytes_readByte_inside _ _ _ _ (by rw [lowBytes_length]; omega), lowBytes_getElem]
    simp
  · next h => exact State.writeBytes_readByte_outside _ _ _ _ (by rw [lowBytes_length]; omega)

theorem State.memWrite_warnings (s : State) (a : Word) (w : Width) (v : Word) :
    (s.memWrite a w v).warnings = if s.outOfRange a w then s.warnings ++ [⟨.write, a, w⟩] else s.warnings := by
  simp [State.memWrite, State.outOfRange]

end Sys2Proof.Machine
end

