-- ==== Sys2Proof/Laws/Regs.lean ====
section
/-! SUPPORT. The register file (10_state.md R101, R102): what a write to a register does to a read of one. -/

namespace Sys2Proof.Machine

@[simp] theorem State.reg_zero (s : State) : s.reg 0#5 = 0#32 := by
  simp [State.reg]

@[simp] theorem State.setReg_zero (s : State) (v : Word) : s.setReg 0#5 v = s := by
  simp [State.setReg]

theorem State.setReg_reg_self {i : RegIdx} (s : State) (v : Word) (h : i ≠ 0#5) : (s.setReg i v).reg i = v := by
  simp [State.setReg, State.reg, h]

theorem State.setReg_reg_ne {i r : RegIdx} (s : State) (v : Word) (h : r ≠ i) : (s.setReg i v).reg r = s.reg r := by
  have hn : i.toNat ≠ r.toNat := fun e => h (BitVec.eq_of_toNat_eq e.symm)
  unfold State.setReg State.reg
  split
  · rfl
  · split
    · rfl
    · simp [Vector.getElem_set_ne, hn]

/-- All that a write to a register does to reads of registers. -/
theorem State.setReg_reg (s : State) (i : RegIdx) (v : Word) (r : RegIdx) :
    (s.setReg i v).reg r = if r = i ∧ i ≠ 0#5 then v else s.reg r := by
  by_cases hr : r = i
  · subst hr
    by_cases h0 : r = 0#5
    · subst h0; simp
    · simp [State.setReg_reg_self, h0]
  · simp [State.setReg_reg_ne, hr]

/-- The storage behind x0 is never written (R102). -/
@[simp] theorem State.setReg_regs_zero (s : State) (i : RegIdx) (v : Word) : (s.setReg i v).regs[0] = s.regs[0] := by
  unfold State.setReg
  split
  · rfl
  · rename_i h
    have hn : i.toNat ≠ 0 := fun e => h (BitVec.eq_of_toNat_eq (by simpa using e))
    simp [Vector.getElem_set_ne, hn]

end Sys2Proof.Machine
end

