-- ==== Sys2Proof/Laws/Exec.lean ====
section
/-! SUPPORT. What the shared shapes of a meaning answer, and the one fact from which frames and invariants follow: exec builds
its next state from the named operations of Machine/Ops.lean alone. -/

namespace Sys2Proof.Machine

/-! ### The shared shapes -/

theorem writeRegNext_eq_next {s t : State} {rd : RegIdx} {v : Word} (h : writeRegNext s rd v = .next t) :
    t = (s.setReg rd v).continueTo (s.pc + 4#32) := by
  injection h with h; exact h.symm

theorem linkAndJump_eq_next {s t : State} {rd : RegIdx} {target : Word} (h : linkAndJump s rd target = .next t) :
    t = (s.setReg rd (s.pc + 4#32)).continueTo target := by
  injection h with h; exact h.symm

theorem branchIf_eq_next {s t : State} {c : Bool} {offset : BitVec 13} (h : branchIf s c offset = .next t) :
    t = s.continueTo (if c then s.pc + immB offset else s.pc + 4#32) := by
  injection h with h; exact h.symm

theorem csrReadModifyWrite_eq_next {s t : State} {rd : RegIdx} {a : CsrAddr} {src : Word} {f : Word → Word → Word}
    (h : csrReadModifyWrite s rd a src f = .next t) :
    (∃ old, s.csr? a = some old ∧ t = ((s.setCsr a (f old src)).setReg rd old).continueTo (s.pc + 4#32)) ∨
      (s.csr? a = none ∧ t = s.continueTo (s.pc + 4#32)) := by
  unfold csrReadModifyWrite at h
  split at h
  · next old ho => injection h with h; exact .inl ⟨old, ho, h.symm⟩
  · next ho => injection h with h; exact .inr ⟨ho, h.symm⟩

/-- A register write, seen through reads of registers (R102). -/
theorem setReg_wroteReg (s : State) (rd : RegIdx) (v : Word) : WroteReg s (s.setReg rd v) rd v where
  value h := State.setReg_reg_self s v h
  zero := State.reg_zero _
  others _ h := State.setReg_reg_ne s v h

theorem WroteReg.of_regs {s t u : State} {rd : RegIdx} {v : Word} (h : WroteReg s t rd v) (hu : u.regs = t.regs) :
    WroteReg s u rd v where
  value hr := by rw [State.reg_congr hu, h.value hr]
  zero := State.reg_zero _
  others r hr := by rw [State.reg_congr hu, h.others r hr]

theorem SameRun.refl (s : State) : SameRun s s := ⟨rfl, rfl, rfl, rfl⟩

/-! ### The induction principle of exec -/

/-- Whatever the named operations keep, every instruction keeps. One case an operation: a register write, a pc write, a
memory write, a warning, a CSR write, and a halt, which only ECALL and EBREAK make. -/
theorem exec_keeps {P : State → Prop} {i : Instr} {s t : State} (h : exec i s = .next t) (hs : P s)
    (hreg : ∀ u rd v, i.dest = some rd → P u → P (u.setReg rd v))
    (hpc : ∀ u npc, i.isHalt = false → P u → P (u.continueTo npc))
    (hmem : ∀ u a w v, i.isStore = true → P u → P (u.memWrite a w v))
    (hwarn : ∀ u d a w, i.accessesMemory = true → P u → P (u.warnIfOut d a w))
    (hcsr : ∀ u a v, i.isCsr = true → P u → P (u.setCsr a v))
    (hhalt : ∀ u r, (i = .ecall ∧ r = .ecall ∨ i = .ebreak ∧ r = .ebreak) → P u → P (u.haltWith r)) : P t := by
  cases i with
  | jal | jalr => rw [linkAndJump_eq_next h]; exact hpc _ _ rfl (hreg _ _ _ rfl hs)
  | beq | bne | blt | bge | bltu | bgeu => rw [branchIf_eq_next h]; exact hpc _ _ rfl hs
  | sb | sh | sw => injection h with h; rw [← h]; exact hpc _ _ rfl (hmem _ _ _ _ rfl hs)
  | lb | lh | lw | lbu | lhu => rw [writeRegNext_eq_next h]; exact hpc _ _ rfl (hreg _ _ _ rfl (hwarn _ _ _ _ rfl hs))
  | ecall => injection h with h; rw [← h]; exact hhalt _ _ (.inl ⟨rfl, rfl⟩) hs
  | ebreak => injection h with h; rw [← h]; exact hhalt _ _ (.inr ⟨rfl, rfl⟩) hs
  | csrrw | csrrs | csrrc | csrrwi | csrrsi | csrrci =>
    simp only [exec, execCsrrw, execCsrrs, execCsrrc, execCsrrwi, execCsrrsi, execCsrrci] at h
    rcases csrReadModifyWrite_eq_next h with ⟨old, -, rfl⟩ | ⟨-, rfl⟩
    · exact hpc _ _ rfl (hreg _ _ _ rfl (hcsr _ _ _ rfl hs))
    · exact hpc _ _ rfl hs
  | fence | fenceI => injection h with h; rw [← h]; exact hpc _ _ rfl hs
  | _ => rw [writeRegNext_eq_next h]; exact hpc _ _ rfl (hreg _ _ _ rfl hs)

/-- No instruction changes the parameters, the counter or the trace. -/
theorem exec_keeps_cfg {i : Instr} {s t : State} (h : exec i s = .next t) :
    t.cfg = s.cfg ∧ t.retired = s.retired ∧ t.trace = s.trace :=
  exec_keeps (P := fun u => u.cfg = s.cfg ∧ u.retired = s.retired ∧ u.trace = s.trace) h ⟨rfl, rfl, rfl⟩
    (by simp) (by simp) (by simp) (by simp) (by simp) (by simp)

/-- Every instruction keeps the canonical form of memory. -/
theorem exec_keeps_mem_wf {i : Instr} {s t : State} (h : exec i s = .next t)
    (hw : Memory.wf s.cfg.memFill s.capacity s.mem) : Memory.wf t.cfg.memFill t.capacity t.mem :=
  exec_keeps (P := fun u => Memory.wf u.cfg.memFill u.capacity u.mem) h hw
    (fun u rd v _ hu => by simpa using hu) (fun u n _ hu => by simpa using hu)
    (fun u a w v _ hu => by simpa using State.memWrite_mem_wf a w v hu)
    (fun u d a w _ hu => by simpa using hu) (fun u a v _ hu => by simpa using hu) (fun u r _ hu => by simpa using hu)

end Sys2Proof.Machine
end

