-- ==== Sys2Proof/Laws/PerInstr.lean ====
section
/-! SUPPORT. A statement for all instructions, one lemma per constructor: the word the encoder writes satisfies the mask and
match that spec/opcode_table.json gives the instruction's row. -/

namespace Sys2Proof.Laws.EncodingRow

/-- The row of spec/opcode_table.json for each constructor. -/
def row : Instr → OpcodeRow
  | .add _ _ _ => ⟨"ADD", 0x00000033#32, 0xFE00707F#32, false⟩
  | .sub _ _ _ => ⟨"SUB", 0x40000033#32, 0xFE00707F#32, false⟩
  | .sll _ _ _ => ⟨"SLL", 0x00001033#32, 0xFE00707F#32, false⟩
  | .slt _ _ _ => ⟨"SLT", 0x00002033#32, 0xFE00707F#32, false⟩
  | .sltu _ _ _ => ⟨"SLTU", 0x00003033#32, 0xFE00707F#32, false⟩
  | .xor _ _ _ => ⟨"XOR", 0x00004033#32, 0xFE00707F#32, false⟩
  | .srl _ _ _ => ⟨"SRL", 0x00005033#32, 0xFE00707F#32, false⟩
  | .sra _ _ _ => ⟨"SRA", 0x40005033#32, 0xFE00707F#32, false⟩
  | .or _ _ _ => ⟨"OR", 0x00006033#32, 0xFE00707F#32, false⟩
  | .and _ _ _ => ⟨"AND", 0x00007033#32, 0xFE00707F#32, false⟩
  | .addi _ _ _ => ⟨"ADDI", 0x00000013#32, 0x0000707F#32, false⟩
  | .slti _ _ _ => ⟨"SLTI", 0x00002013#32, 0x0000707F#32, false⟩
  | .sltiu _ _ _ => ⟨"SLTIU", 0x00003013#32, 0x0000707F#32, false⟩
  | .xori _ _ _ => ⟨"XORI", 0x00004013#32, 0x0000707F#32, false⟩
  | .ori _ _ _ => ⟨"ORI", 0x00006013#32, 0x0000707F#32, false⟩
  | .andi _ _ _ => ⟨"ANDI", 0x00007013#32, 0x0000707F#32, false⟩
  | .slli _ _ _ => ⟨"SLLI", 0x00001013#32, 0xFE00707F#32, false⟩
  | .srli _ _ _ => ⟨"SRLI", 0x00005013#32, 0xFE00707F#32, false⟩
  | .srai _ _ _ => ⟨"SRAI", 0x40005013#32, 0xFE00707F#32, false⟩
  | .lb _ _ _ => ⟨"LB", 0x00000003#32, 0x0000707F#32, false⟩
  | .lh _ _ _ => ⟨"LH", 0x00001003#32, 0x0000707F#32, false⟩
  | .lw _ _ _ => ⟨"LW", 0x00002003#32, 0x0000707F#32, false⟩
  | .lbu _ _ _ => ⟨"LBU", 0x00004003#32, 0x0000707F#32, false⟩
  | .lhu _ _ _ => ⟨"LHU", 0x00005003#32, 0x0000707F#32, false⟩
  | .sb _ _ _ => ⟨"SB", 0x00000023#32, 0x0000707F#32, false⟩
  | .sh _ _ _ => ⟨"SH", 0x00001023#32, 0x0000707F#32, false⟩
  | .sw _ _ _ => ⟨"SW", 0x00002023#32, 0x0000707F#32, false⟩
  | .beq _ _ _ => ⟨"BEQ", 0x00000063#32, 0x0000707F#32, false⟩
  | .bne _ _ _ => ⟨"BNE", 0x00001063#32, 0x0000707F#32, false⟩
  | .blt _ _ _ => ⟨"BLT", 0x00004063#32, 0x0000707F#32, false⟩
  | .bge _ _ _ => ⟨"BGE", 0x00005063#32, 0x0000707F#32, false⟩
  | .bltu _ _ _ => ⟨"BLTU", 0x00006063#32, 0x0000707F#32, false⟩
  | .bgeu _ _ _ => ⟨"BGEU", 0x00007063#32, 0x0000707F#32, false⟩
  | .jal _ _ => ⟨"JAL", 0x0000006F#32, 0x0000007F#32, false⟩
  | .jalr _ _ _ => ⟨"JALR", 0x00000067#32, 0x0000707F#32, false⟩
  | .lui _ _ => ⟨"LUI", 0x00000037#32, 0x0000007F#32, false⟩
  | .auipc _ _ => ⟨"AUIPC", 0x00000017#32, 0x0000007F#32, false⟩
  | .ecall => ⟨"ECALL", 0x00000073#32, 0xFFFFFFFF#32, false⟩
  | .ebreak => ⟨"EBREAK", 0x00100073#32, 0xFFFFFFFF#32, false⟩
  | .csrrw _ _ _ => ⟨"CSRRW", 0x00001073#32, 0x0000707F#32, false⟩
  | .csrrs _ _ _ => ⟨"CSRRS", 0x00002073#32, 0x0000707F#32, false⟩
  | .csrrc _ _ _ => ⟨"CSRRC", 0x00003073#32, 0x0000707F#32, false⟩
  | .csrrwi _ _ _ => ⟨"CSRRWI", 0x00005073#32, 0x0000707F#32, false⟩
  | .csrrsi _ _ _ => ⟨"CSRRSI", 0x00006073#32, 0x0000707F#32, false⟩
  | .csrrci _ _ _ => ⟨"CSRRCI", 0x00007073#32, 0x0000707F#32, false⟩
  | .fence _ _ _ => ⟨"FENCE", 0x0000000F#32, 0x0000707F#32, true⟩
  | .fenceI _ _ _ => ⟨"FENCE.I", 0x0000100F#32, 0x0000707F#32, true⟩

/-- Each of these rows stands in the decoder's copy of the table. -/
theorem row_in_opcodeTable (i : Instr) : opcodeTable.contains (row i) = true := by
  cases i <;> rfl

/-- The encoded word lies in the instruction's row. -/
def Statement (i : Instr) : Prop := encode i &&& (row i).mask = (row i).value

/-! ### The masks keep exactly the fixed fields of each format -/

theorem encR_row (f7 : BitVec 7) (rs2 rs1 : RegIdx) (f3 : BitVec 3) (rd : RegIdx) (op : BitVec 7) :
    encR f7 rs2 rs1 f3 rd op &&& 0xFE00707F#32 = encR f7 0 0 f3 0 op := by
  apply BitVec.eq_of_getLsbD_eq
  intro i hi
  simp only [encR, BitVec.getLsbD_and, BitVec.getLsbD_append]
  interval_cases i <;> simp

theorem encI_row (imm : BitVec 12) (rs1 : RegIdx) (f3 : BitVec 3) (rd : RegIdx) (op : BitVec 7) :
    encI imm rs1 f3 rd op &&& 0x0000707F#32 = encI 0 0 f3 0 op := by
  apply BitVec.eq_of_getLsbD_eq
  intro i hi
  simp only [encI, BitVec.getLsbD_and, BitVec.getLsbD_append]
  interval_cases i <;> simp

theorem encS_row (imm : BitVec 12) (rs2 rs1 : RegIdx) (f3 : BitVec 3) (op : BitVec 7) :
    encS imm rs2 rs1 f3 op &&& 0x0000707F#32 = encS 0 0 0 f3 op := by
  apply BitVec.eq_of_getLsbD_eq
  intro i hi
  simp only [encS, BitVec.getLsbD_and, BitVec.getLsbD_append]
  interval_cases i <;> simp

theorem encB_row (imm : BitVec 13) (rs2 rs1 : RegIdx) (f3 : BitVec 3) (op : BitVec 7) :
    encB imm rs2 rs1 f3 op &&& 0x0000707F#32 = encB 0 0 0 f3 op := by
  apply BitVec.eq_of_getLsbD_eq
  intro i hi
  simp only [encB, BitVec.getLsbD_and, BitVec.getLsbD_append]
  interval_cases i <;> simp

theorem encU_row (imm : BitVec 20) (rd : RegIdx) (op : BitVec 7) :
    encU imm rd op &&& 0x0000007F#32 = encU 0 0 op := by
  apply BitVec.eq_of_getLsbD_eq
  intro i hi
  simp only [encU, BitVec.getLsbD_and, BitVec.getLsbD_append]
  interval_cases i <;> simp

theorem encJ_row (imm : BitVec 21) (rd : RegIdx) (op : BitVec 7) :
    encJ imm rd op &&& 0x0000007F#32 = encJ 0 0 op := by
  apply BitVec.eq_of_getLsbD_eq
  intro i hi
  simp only [encJ, BitVec.getLsbD_and, BitVec.getLsbD_append]
  interval_cases i <;> simp

/-! ### One lemma per constructor -/

theorem add (rd rs1 rs2 : RegIdx) : Statement (.add rd rs1 rs2) :=
  (encR_row _ _ _ _ _ _).trans rfl

theorem sub (rd rs1 rs2 : RegIdx) : Statement (.sub rd rs1 rs2) :=
  (encR_row _ _ _ _ _ _).trans rfl

theorem sll (rd rs1 rs2 : RegIdx) : Statement (.sll rd rs1 rs2) :=
  (encR_row _ _ _ _ _ _).trans rfl

theorem slt (rd rs1 rs2 : RegIdx) : Statement (.slt rd rs1 rs2) :=
  (encR_row _ _ _ _ _ _).trans rfl

theorem sltu (rd rs1 rs2 : RegIdx) : Statement (.sltu rd rs1 rs2) :=
  (encR_row _ _ _ _ _ _).trans rfl

theorem xor (rd rs1 rs2 : RegIdx) : Statement (.xor rd rs1 rs2) :=
  (encR_row _ _ _ _ _ _).trans rfl

theorem srl (rd rs1 rs2 : RegIdx) : Statement (.srl rd rs1 rs2) :=
  (encR_row _ _ _ _ _ _).trans rfl

theorem sra (rd rs1 rs2 : RegIdx) : Statement (.sra rd rs1 rs2) :=
  (encR_row _ _ _ _ _ _).trans rfl

theorem or (rd rs1 rs2 : RegIdx) : Statement (.or rd rs1 rs2) :=
  (encR_row _ _ _ _ _ _).trans rfl

theorem and (rd rs1 rs2 : RegIdx) : Statement (.and rd rs1 rs2) :=
  (encR_row _ _ _ _ _ _).trans rfl

theorem addi (rd rs1 : RegIdx) (imm : BitVec 12) : Statement (.addi rd rs1 imm) :=
  (encI_row _ _ _ _ _).trans rfl

theorem slti (rd rs1 : RegIdx) (imm : BitVec 12) : Statement (.slti rd rs1 imm) :=
  (encI_row _ _ _ _ _).trans rfl

theorem sltiu (rd rs1 : RegIdx) (imm : BitVec 12) : Statement (.sltiu rd rs1 imm) :=
  (encI_row _ _ _ _ _).trans rfl

theorem xori (rd rs1 : RegIdx) (imm : BitVec 12) : Statement (.xori rd rs1 imm) :=
  (encI_row _ _ _ _ _).trans rfl

theorem ori (rd rs1 : RegIdx) (imm : BitVec 12) : Statement (.ori rd rs1 imm) :=
  (encI_row _ _ _ _ _).trans rfl

theorem andi (rd rs1 : RegIdx) (imm : BitVec 12) : Statement (.andi rd rs1 imm) :=
  (encI_row _ _ _ _ _).trans rfl

theorem slli (rd rs1 : RegIdx) (shamt : BitVec 5) : Statement (.slli rd rs1 shamt) :=
  (encR_row _ _ _ _ _ _).trans rfl

theorem srli (rd rs1 : RegIdx) (shamt : BitVec 5) : Statement (.srli rd rs1 shamt) :=
  (encR_row _ _ _ _ _ _).trans rfl

theorem srai (rd rs1 : RegIdx) (shamt : BitVec 5) : Statement (.srai rd rs1 shamt) :=
  (encR_row _ _ _ _ _ _).trans rfl

theorem lb (rd rs1 : RegIdx) (imm : BitVec 12) : Statement (.lb rd rs1 imm) :=
  (encI_row _ _ _ _ _).trans rfl

theorem lh (rd rs1 : RegIdx) (imm : BitVec 12) : Statement (.lh rd rs1 imm) :=
  (encI_row _ _ _ _ _).trans rfl

theorem lw (rd rs1 : RegIdx) (imm : BitVec 12) : Statement (.lw rd rs1 imm) :=
  (encI_row _ _ _ _ _).trans rfl

theorem lbu (rd rs1 : RegIdx) (imm : BitVec 12) : Statement (.lbu rd rs1 imm) :=
  (encI_row _ _ _ _ _).trans rfl

theorem lhu (rd rs1 : RegIdx) (imm : BitVec 12) : Statement (.lhu rd rs1 imm) :=
  (encI_row _ _ _ _ _).trans rfl

theorem sb (rs1 rs2 : RegIdx) (imm : BitVec 12) : Statement (.sb rs1 rs2 imm) :=
  (encS_row _ _ _ _ _).trans rfl

theorem sh (rs1 rs2 : RegIdx) (imm : BitVec 12) : Statement (.sh rs1 rs2 imm) :=
  (encS_row _ _ _ _ _).trans rfl

theorem sw (rs1 rs2 : RegIdx) (imm : BitVec 12) : Statement (.sw rs1 rs2 imm) :=
  (encS_row _ _ _ _ _).trans rfl

theorem beq (rs1 rs2 : RegIdx) (offset : BitVec 13) : Statement (.beq rs1 rs2 offset) :=
  (encB_row _ _ _ _ _).trans rfl

theorem bne (rs1 rs2 : RegIdx) (offset : BitVec 13) : Statement (.bne rs1 rs2 offset) :=
  (encB_row _ _ _ _ _).trans rfl

theorem blt (rs1 rs2 : RegIdx) (offset : BitVec 13) : Statement (.blt rs1 rs2 offset) :=
  (encB_row _ _ _ _ _).trans rfl

theorem bge (rs1 rs2 : RegIdx) (offset : BitVec 13) : Statement (.bge rs1 rs2 offset) :=
  (encB_row _ _ _ _ _).trans rfl

theorem bltu (rs1 rs2 : RegIdx) (offset : BitVec 13) : Statement (.bltu rs1 rs2 offset) :=
  (encB_row _ _ _ _ _).trans rfl

theorem bgeu (rs1 rs2 : RegIdx) (offset : BitVec 13) : Statement (.bgeu rs1 rs2 offset) :=
  (encB_row _ _ _ _ _).trans rfl

theorem jal (rd : RegIdx) (offset : BitVec 21) : Statement (.jal rd offset) :=
  (encJ_row _ _ _).trans rfl

theorem jalr (rd rs1 : RegIdx) (imm : BitVec 12) : Statement (.jalr rd rs1 imm) :=
  (encI_row _ _ _ _ _).trans rfl

theorem lui (rd : RegIdx) (imm : BitVec 20) : Statement (.lui rd imm) :=
  (encU_row _ _ _).trans rfl

theorem auipc (rd : RegIdx) (imm : BitVec 20) : Statement (.auipc rd imm) :=
  (encU_row _ _ _).trans rfl

theorem ecall : Statement .ecall :=
  rfl

theorem ebreak : Statement .ebreak :=
  rfl

theorem csrrw (rd rs1 : RegIdx) (csr : CsrAddr) : Statement (.csrrw rd rs1 csr) :=
  (encI_row _ _ _ _ _).trans rfl

theorem csrrs (rd rs1 : RegIdx) (csr : CsrAddr) : Statement (.csrrs rd rs1 csr) :=
  (encI_row _ _ _ _ _).trans rfl

theorem csrrc (rd rs1 : RegIdx) (csr : CsrAddr) : Statement (.csrrc rd rs1 csr) :=
  (encI_row _ _ _ _ _).trans rfl

theorem csrrwi (rd : RegIdx) (zimm : BitVec 5) (csr : CsrAddr) : Statement (.csrrwi rd zimm csr) :=
  (encI_row _ _ _ _ _).trans rfl

theorem csrrsi (rd : RegIdx) (zimm : BitVec 5) (csr : CsrAddr) : Statement (.csrrsi rd zimm csr) :=
  (encI_row _ _ _ _ _).trans rfl

theorem csrrci (rd : RegIdx) (zimm : BitVec 5) (csr : CsrAddr) : Statement (.csrrci rd zimm csr) :=
  (encI_row _ _ _ _ _).trans rfl

theorem fence (rd rs1 : RegIdx) (imm : BitVec 12) : Statement (.fence rd rs1 imm) :=
  (encI_row _ _ _ _ _).trans rfl

theorem fenceI (rd rs1 : RegIdx) (imm : BitVec 12) : Statement (.fenceI rd rs1 imm) :=
  (encI_row _ _ _ _ _).trans rfl

end Sys2Proof.Laws.EncodingRow
end

