-- ==== Sys2Proof/Laws/Step.lean ====
section
/-! SUPPORT. What a step can do, said once: the five cases of R900 and R901, with every guard. -/

namespace Sys2Proof.Machine

/-- The fetch checks pass exactly for an aligned pc whose word is below CAP (R213, R902, R903). -/
theorem State.fetchTrap_eq_none (s : State) :
    s.fetchTrap = none ↔ s.pc.toNat % 4 = 0 ∧ s.pc.toNat + 3 < s.capacity := by
  unfold State.fetchTrap
  split
  · next h => simp [h]
  · next h =>
    split
    · next hc => simp; omega
    · next hc => simp; omega

theorem retireResult_eq_next {r : Result} {t : State} (h : retireResult r = .next t) :
    ∃ u, r = .next u ∧ t = u.retire := by
  cases r with
  | next u => injection h with h; exact ⟨u, rfl, h.symm⟩
  | fault f => cases h
  | refused f => cases h

/-- Everything a step can do when it answers a next state. -/
theorem step_cases {s t : State} (h : step s = .next t) :
    (s.runState ≠ .running ∧ t = s) ∨
    (s.runState = .running ∧ ∃ tr, s.fetchTrap = some tr ∧ t = s.takeTrap tr) ∨
    (s.runState = .running ∧ s.fetchTrap = none ∧ ∃ w, decode s.cfg.fenceDecode s.fetchWord = .illegal w ∧
      t = (s.emitTrace s.fetchWord).takeTrap (.illegalInstruction s.pc w)) ∨
    (s.runState = .running ∧ s.fetchTrap = none ∧ ∃ i u, decode s.cfg.fenceDecode s.fetchWord = .instr i ∧
      exec i (s.emitTrace s.fetchWord) = .next u ∧ t = u.retire) := by
  unfold step at h
  split at h
  · next hr =>
    unfold runningStep at h
    split at h
    · next tr ht => injection h with h; exact .inr (.inl ⟨hr, tr, ht, h.symm⟩)
    · next ht =>
      unfold decodeAndExecute at h
      split at h
      · next i hd =>
        obtain ⟨u, hu, rfl⟩ := retireResult_eq_next h
        exact .inr (.inr (.inr ⟨hr, ht, i, u, by simpa using hd, hu, rfl⟩))
      · next w hd =>
        injection h with h
        exact .inr (.inr (.inl ⟨hr, ht, w, by simpa using hd, by simpa using h.symm⟩))
  · next r hr => injection h with h; exact .inl ⟨by simp [hr], h.symm⟩
  · next tr hr => injection h with h; exact .inl ⟨by simp [hr], h.symm⟩

/-- A decoded ILLEGAL carries the word it came from (R335). -/
theorem decode_illegal_word {fd : FenceDecode} {w v : Word} (h : decode fd w = .illegal v) : v = w := by
  unfold decode at h
  split at h
  · cases h
  · injection h with h; exact h.symm

end Sys2Proof.Machine
end

