-- ==== Sys2Proof/Machine/Text.lean ====
section
/-! DEFINITION. The number formats of the block's text outputs (30_encoding.md R346, 20_memory.md R230,
70_reset_and_hazards.md R1006): uppercase hexadecimal of a fixed width, and decimal register numbers. -/

namespace Sys2Proof.Machine

/-- One digit, uppercase above 9 (R230, R346). -/
def digitChar (n : Nat) : Char :=
  if n < 10 then Char.ofNat (48 + n) else Char.ofNat (55 + n)

/-- The low `k` hexadecimal digits of a number, the most significant first. -/
def hexChars : Nat → Nat → List Char
  | 0, _ => []
  | k + 1, n => digitChar (n / 16 ^ k % 16) :: hexChars k n

/-- Fixed-width uppercase hexadecimal without a marker. -/
def hexText (k n : Nat) : String := String.ofList (hexChars k n)

/-- The decimal digits of a number, at most `fuel` of them, without padding. -/
def decimalChars : Nat → Nat → List Char
  | 0, _ => []
  | fuel + 1, n => if n < 10 then [digitChar n] else decimalChars fuel (n / 10) ++ [digitChar (n % 10)]

/-- A number below 10^10 in decimal. -/
def decimalText (n : Nat) : String := String.ofList (decimalChars 10 n)

/-- An integer in decimal, with a minus sign if negative. -/
def signedText (n : Int) : String :=
  if n < 0 then "-" ++ decimalText n.natAbs else decimalText n.natAbs

/-- `x<N>` (10_state.md R107). -/
def regText (r : RegIdx) : String := "x" ++ decimalText r.toNat

/-- Texts with a separator between neighbours. -/
def joinText (sep : String) : List String → String
  | [] => ""
  | [t] => t
  | t :: u :: rest => t ++ sep ++ joinText sep (u :: rest)

/-- A text padded with spaces on the right to a width (R346). -/
def padRight (width : Nat) (t : String) : String :=
  t ++ String.ofList (List.replicate (width - t.toList.length) ' ')

/-- Letters in lower case (R345, R346). -/
def lowerText (t : String) : String :=
  String.ofList (t.toList.map fun c => if 65 ≤ c.toNat ∧ c.toNat ≤ 90 then Char.ofNat (c.toNat + 32) else c)

end Sys2Proof.Machine
end

