-- ==== Sys2Proof/Machine/Disasm.lean ====
section
/-! DEFINITION. Disassembly and trace text (30_encoding.md R346, 60_exceptions.md R930) and assembler syntax (R345). Diagnostic
output: no rule reads it. What R346 leaves open is in log entry 14, what R345 leaves open in log entry 27. -/

namespace Sys2Proof.Machine

/-- `0x` and a fixed number of digits. -/
def hexImm (k n : Nat) : String := "0x" ++ hexText k n

/-- `imm(xN)`. -/
def memOperand (imm : String) (base : RegIdx) : String := imm ++ "(" ++ regText base ++ ")"

/-- The operands of a disassembly line: 12-bit immediates and CSR addresses in 3 hex digits, U immediates in 5, shift amounts
and zimm in 2, branch and JAL targets as absolute addresses (R346, D23). -/
def disasmOperands (pc : Word) : Instr → List String
  | .add rd rs1 rs2 => [regText rd, regText rs1, regText rs2]
  | .sub rd rs1 rs2 => [regText rd, regText rs1, regText rs2]
  | .sll rd rs1 rs2 => [regText rd, regText rs1, regText rs2]
  | .slt rd rs1 rs2 => [regText rd, regText rs1, regText rs2]
  | .sltu rd rs1 rs2 => [regText rd, regText rs1, regText rs2]
  | .xor rd rs1 rs2 => [regText rd, regText rs1, regText rs2]
  | .srl rd rs1 rs2 => [regText rd, regText rs1, regText rs2]
  | .sra rd rs1 rs2 => [regText rd, regText rs1, regText rs2]
  | .or rd rs1 rs2 => [regText rd, regText rs1, regText rs2]
  | .and rd rs1 rs2 => [regText rd, regText rs1, regText rs2]
  | .addi rd rs1 imm => [regText rd, regText rs1, hexImm 3 imm.toNat]
  | .slti rd rs1 imm => [regText rd, regText rs1, hexImm 3 imm.toNat]
  | .sltiu rd rs1 imm => [regText rd, regText rs1, hexImm 3 imm.toNat]
  | .xori rd rs1 imm => [regText rd, regText rs1, hexImm 3 imm.toNat]
  | .ori rd rs1 imm => [regText rd, regText rs1, hexImm 3 imm.toNat]
  | .andi rd rs1 imm => [regText rd, regText rs1, hexImm 3 imm.toNat]
  | .slli rd rs1 shamt => [regText rd, regText rs1, hexImm 2 shamt.toNat]
  | .srli rd rs1 shamt => [regText rd, regText rs1, hexImm 2 shamt.toNat]
  | .srai rd rs1 shamt => [regText rd, regText rs1, hexImm 2 shamt.toNat]
  | .lb rd rs1 imm => [regText rd, memOperand (hexImm 3 imm.toNat) rs1]
  | .lh rd rs1 imm => [regText rd, memOperand (hexImm 3 imm.toNat) rs1]
  | .lw rd rs1 imm => [regText rd, memOperand (hexImm 3 imm.toNat) rs1]
  | .lbu rd rs1 imm => [regText rd, memOperand (hexImm 3 imm.toNat) rs1]
  | .lhu rd rs1 imm => [regText rd, memOperand (hexImm 3 imm.toNat) rs1]
  | .sb rs1 rs2 imm => [regText rs2, memOperand (hexImm 3 imm.toNat) rs1]
  | .sh rs1 rs2 imm => [regText rs2, memOperand (hexImm 3 imm.toNat) rs1]
  | .sw rs1 rs2 imm => [regText rs2, memOperand (hexImm 3 imm.toNat) rs1]
  | .beq rs1 rs2 offset => [regText rs1, regText rs2, hexImm 8 (pc + immB offset).toNat]
  | .bne rs1 rs2 offset => [regText rs1, regText rs2, hexImm 8 (pc + immB offset).toNat]
  | .blt rs1 rs2 offset => [regText rs1, regText rs2, hexImm 8 (pc + immB offset).toNat]
  | .bge rs1 rs2 offset => [regText rs1, regText rs2, hexImm 8 (pc + immB offset).toNat]
  | .bltu rs1 rs2 offset => [regText rs1, regText rs2, hexImm 8 (pc + immB offset).toNat]
  | .bgeu rs1 rs2 offset => [regText rs1, regText rs2, hexImm 8 (pc + immB offset).toNat]
  | .jal rd offset => [regText rd, hexImm 8 (pc + immJ offset).toNat]
  | .jalr rd rs1 imm => [regText rd, memOperand (hexImm 3 imm.toNat) rs1]
  | .lui rd imm => [regText rd, hexImm 5 imm.toNat]
  | .auipc rd imm => [regText rd, hexImm 5 imm.toNat]
  | .ecall => []
  | .ebreak => []
  | .csrrw rd rs1 csr => [regText rd, hexImm 3 csr.toNat, regText rs1]
  | .csrrs rd rs1 csr => [regText rd, hexImm 3 csr.toNat, regText rs1]
  | .csrrc rd rs1 csr => [regText rd, hexImm 3 csr.toNat, regText rs1]
  | .csrrwi rd zimm csr => [regText rd, hexImm 3 csr.toNat, hexImm 2 zimm.toNat]
  | .csrrsi rd zimm csr => [regText rd, hexImm 3 csr.toNat, hexImm 2 zimm.toNat]
  | .csrrci rd zimm csr => [regText rd, hexImm 3 csr.toNat, hexImm 2 zimm.toNat]
  | .fence _ _ _ => []
  | .fenceI _ _ _ => []

/-- The disassembly of a decoded word at a pc: the lower-case mnemonic padded to 8 characters, then the operands with commas
between them; `illegal  0x` and the word for ILLEGAL (R346). -/
def disasm (pc : Word) : Decoded → String
  | .instr i => padRight 8 (lowerText i.mnemonic) ++ joinText "," (disasmOperands pc i)
  | .illegal w => "illegal  0x" ++ hexText 8 w.toNat

/-- A trace line: the pc as 8 uppercase hex digits, `: `, then the disassembly of the word (R930, D26). -/
def TraceEvent.line (fd : FenceDecode) (e : TraceEvent) : String :=
  hexText 8 e.pc.toNat ++ ": " ++ disasm e.pc (decode fd e.word)

/-- The trace port's lines (R1003). -/
def State.traceLines (s : State) : List String := s.trace.map (TraceEvent.line s.cfg.fenceDecode)

/-- The operands in assembler syntax: offsets relative to the instruction (R345). DESIGN CHOICE (log entry 27), where R345 leaves
it open: immediates, shift amounts and zimm in decimal, imm20 and CSR addresses in hex, registers as `x0`..`x31`, and no
operands for FENCE and FENCE.I, whatever their fields hold; R347 and R830 write `fence iorw, iorw` for 0x0FF0000F. -/
def asmOperands : Instr → List String
  | .add rd rs1 rs2 => [regText rd, regText rs1, regText rs2]
  | .sub rd rs1 rs2 => [regText rd, regText rs1, regText rs2]
  | .sll rd rs1 rs2 => [regText rd, regText rs1, regText rs2]
  | .slt rd rs1 rs2 => [regText rd, regText rs1, regText rs2]
  | .sltu rd rs1 rs2 => [regText rd, regText rs1, regText rs2]
  | .xor rd rs1 rs2 => [regText rd, regText rs1, regText rs2]
  | .srl rd rs1 rs2 => [regText rd, regText rs1, regText rs2]
  | .sra rd rs1 rs2 => [regText rd, regText rs1, regText rs2]
  | .or rd rs1 rs2 => [regText rd, regText rs1, regText rs2]
  | .and rd rs1 rs2 => [regText rd, regText rs1, regText rs2]
  | .addi rd rs1 imm => [regText rd, regText rs1, signedText imm.toInt]
  | .slti rd rs1 imm => [regText rd, regText rs1, signedText imm.toInt]
  | .sltiu rd rs1 imm => [regText rd, regText rs1, signedText imm.toInt]
  | .xori rd rs1 imm => [regText rd, regText rs1, signedText imm.toInt]
  | .ori rd rs1 imm => [regText rd, regText rs1, signedText imm.toInt]
  | .andi rd rs1 imm => [regText rd, regText rs1, signedText imm.toInt]
  | .slli rd rs1 shamt => [regText rd, regText rs1, decimalText shamt.toNat]
  | .srli rd rs1 shamt => [regText rd, regText rs1, decimalText shamt.toNat]
  | .srai rd rs1 shamt => [regText rd, regText rs1, decimalText shamt.toNat]
  | .lb rd rs1 imm => [regText rd, memOperand (signedText imm.toInt) rs1]
  | .lh rd rs1 imm => [regText rd, memOperand (signedText imm.toInt) rs1]
  | .lw rd rs1 imm => [regText rd, memOperand (signedText imm.toInt) rs1]
  | .lbu rd rs1 imm => [regText rd, memOperand (signedText imm.toInt) rs1]
  | .lhu rd rs1 imm => [regText rd, memOperand (signedText imm.toInt) rs1]
  | .sb rs1 rs2 imm => [regText rs2, memOperand (signedText imm.toInt) rs1]
  | .sh rs1 rs2 imm => [regText rs2, memOperand (signedText imm.toInt) rs1]
  | .sw rs1 rs2 imm => [regText rs2, memOperand (signedText imm.toInt) rs1]
  | .beq rs1 rs2 offset => [regText rs1, regText rs2, signedText offset.toInt]
  | .bne rs1 rs2 offset => [regText rs1, regText rs2, signedText offset.toInt]
  | .blt rs1 rs2 offset => [regText rs1, regText rs2, signedText offset.toInt]
  | .bge rs1 rs2 offset => [regText rs1, regText rs2, signedText offset.toInt]
  | .bltu rs1 rs2 offset => [regText rs1, regText rs2, signedText offset.toInt]
  | .bgeu rs1 rs2 offset => [regText rs1, regText rs2, signedText offset.toInt]
  | .jal rd offset => [regText rd, signedText offset.toInt]
  | .jalr rd rs1 imm => [regText rd, memOperand (signedText imm.toInt) rs1]
  | .lui rd imm => [regText rd, hexImm 5 imm.toNat]
  | .auipc rd imm => [regText rd, hexImm 5 imm.toNat]
  | .ecall => []
  | .ebreak => []
  | .csrrw rd rs1 csr => [regText rd, hexImm 3 csr.toNat, regText rs1]
  | .csrrs rd rs1 csr => [regText rd, hexImm 3 csr.toNat, regText rs1]
  | .csrrc rd rs1 csr => [regText rd, hexImm 3 csr.toNat, regText rs1]
  | .csrrwi rd zimm csr => [regText rd, hexImm 3 csr.toNat, decimalText zimm.toNat]
  | .csrrsi rd zimm csr => [regText rd, hexImm 3 csr.toNat, decimalText zimm.toNat]
  | .csrrci rd zimm csr => [regText rd, hexImm 3 csr.toNat, decimalText zimm.toNat]
  | .fence _ _ _ => []
  | .fenceI _ _ _ => []

/-- An instruction in assembler syntax (R345). -/
def asmText (i : Instr) : String :=
  match asmOperands i with
  | [] => lowerText i.mnemonic
  | ops => lowerText i.mnemonic ++ " " ++ joinText ", " ops

end Sys2Proof.Machine
end

