-- ==== Sys2Proof/Machine/Dump.lean ====
section
/-! DEFINITION. The register dump (70_reset_and_hazards.md R1006) and the memory dump (20_memory.md R230): renderings of the
state that the host may take between steps. Diagnostic output: no rule depends on it (log entries 15 and 24). -/

namespace Sys2Proof.Machine

/-- `x<index>`, one space, and the value as 8 uppercase hex digits (R1006). -/
def regDumpEntry (s : State) (i : Nat) : String :=
  regText (BitVec.ofNat 5 i) ++ " " ++ hexText 8 (s.reg (BitVec.ofNat 5 i)).toNat

/-- Line `k` of the register dump: eight entries, one space between them, then a newline (R1006). -/
def regDumpLine (s : State) (k : Nat) : String :=
  joinText " " ((List.range 8).map fun j => regDumpEntry s (8 * k + j)) ++ "\n"

/-- The register dump: four lines, no header (R1006, D29). -/
def registerDump (s : State) : List String := (List.range 4).map (regDumpLine s)

/-- A byte as a printable character: 0x20..0x7E, else `.` (R230, D27). -/
def printableChar (b : Byte) : Char :=
  if 0x20 ≤ b.toNat ∧ b.toNat ≤ 0x7E then Char.ofNat b.toNat else '.'

/-- Two-digit hex of `n` bytes from an address, one space between them. -/
def hexBytes (s : State) (a n : Nat) : String :=
  joinText " " ((List.range n).map fun j => hexText 2 (s.readByte (a + j)).toNat)

/-- Line `k` of the memory dump, for the 16 bytes from `16 * k` (R230). -/
def memDumpLine (s : State) (k : Nat) : String :=
  hexText 8 (16 * k) ++ ": " ++ hexBytes s (16 * k) 8 ++ "  " ++ hexBytes s (16 * k + 8) 8 ++ "*" ++
    String.ofList ((List.range 16).map fun j => printableChar (s.readByte (16 * k + j))) ++ "*"

/-- The memory dump: one line for every 16 bytes of the capacity (R216, R230). -/
def memoryDump (s : State) : List String := (List.range (s.capacity / 16)).map (memDumpLine s)

end Sys2Proof.Machine
end

