-- ==== Sys2Proof/Tests/Slice0.lean ====
section
/-! SUPPORT. Tests. Expected values are the spec's: its vectors and worked examples (95_test_vectors.md, 41_loads_stores.md,
70_reset_and_hazards.md R1006), its encodings (30_encoding.md), or the rule named. The last part shows, for every statement
with hypotheses, a state and operands that meet them all. -/

namespace Sys2Proof.Tests

open Sys2Proof Sys2Proof.Machine

/-! ### Ill-formed terms: one for each check of WellFormed (R312, R314) -/

theorem test_wf_refuses_odd_beq : (Instr.beq 1 2 0x0003).wf = false := by decide
theorem test_wf_refuses_odd_bne : (Instr.bne 1 2 0x0001).wf = false := by decide
theorem test_wf_refuses_odd_blt : (Instr.blt 1 2 0x1FFF).wf = false := by decide
theorem test_wf_refuses_odd_bge : (Instr.bge 1 2 0x0005).wf = false := by decide
theorem test_wf_refuses_odd_bltu : (Instr.bltu 1 2 0x0007).wf = false := by decide
theorem test_wf_refuses_odd_bgeu : (Instr.bgeu 1 2 0x1001).wf = false := by decide
theorem test_wf_refuses_odd_jal : (Instr.jal 1 0x100001).wf = false := by decide
theorem test_wf_accepts_even : (Instr.beq 1 2 0x0002).wf = true ∧ (Instr.jal 1 0x1FFFFE).wf = true := by decide
theorem test_fence_not_available_under_illegal : (Instr.fence 0 0 0x0FF).availableUnder .illegal = false := by decide
theorem test_fenceI_not_available_under_illegal : (Instr.fenceI 0 0 0).availableUnder .illegal = false := by decide

/-! ### Every constructor's decoding, from words written out by the formats of R302–R308 and the values of R320–R330 -/

/-- `funct7 | rs2 | rs1 | funct3 | rd | opcode` with rs2 = 2, rs1 = 1, rd = 3. -/
theorem test_decode_op :
    decode .illegal 0b0000000_00010_00001_000_00011_0110011#32 = .instr (.add 3 1 2) ∧
    decode .illegal 0b0100000_00010_00001_000_00011_0110011#32 = .instr (.sub 3 1 2) ∧
    decode .illegal 0b0000000_00010_00001_001_00011_0110011#32 = .instr (.sll 3 1 2) ∧
    decode .illegal 0b0000000_00010_00001_010_00011_0110011#32 = .instr (.slt 3 1 2) ∧
    decode .illegal 0b0000000_00010_00001_011_00011_0110011#32 = .instr (.sltu 3 1 2) ∧
    decode .illegal 0b0000000_00010_00001_100_00011_0110011#32 = .instr (.xor 3 1 2) ∧
    decode .illegal 0b0000000_00010_00001_101_00011_0110011#32 = .instr (.srl 3 1 2) ∧
    decode .illegal 0b0100000_00010_00001_101_00011_0110011#32 = .instr (.sra 3 1 2) ∧
    decode .illegal 0b0000000_00010_00001_110_00011_0110011#32 = .instr (.or 3 1 2) ∧
    decode .illegal 0b0000000_00010_00001_111_00011_0110011#32 = .instr (.and 3 1 2) := by decide

/-- `imm[11:0] | rs1 | funct3 | rd | opcode` with imm = 0x801, rs1 = 6, rd = 5, and the shifts with shamt = 31. -/
theorem test_decode_op_imm :
    decode .illegal 0b100000000001_00110_000_00101_0010011#32 = .instr (.addi 5 6 0x801) ∧
    decode .illegal 0b100000000001_00110_010_00101_0010011#32 = .instr (.slti 5 6 0x801) ∧
    decode .illegal 0b100000000001_00110_011_00101_0010011#32 = .instr (.sltiu 5 6 0x801) ∧
    decode .illegal 0b100000000001_00110_100_00101_0010011#32 = .instr (.xori 5 6 0x801) ∧
    decode .illegal 0b100000000001_00110_110_00101_0010011#32 = .instr (.ori 5 6 0x801) ∧
    decode .illegal 0b100000000001_00110_111_00101_0010011#32 = .instr (.andi 5 6 0x801) ∧
    decode .illegal 0b0000000_11111_00110_001_00101_0010011#32 = .instr (.slli 5 6 31) ∧
    decode .illegal 0b0000000_11111_00110_101_00101_0010011#32 = .instr (.srli 5 6 31) ∧
    decode .illegal 0b0100000_11111_00110_101_00101_0010011#32 = .instr (.srai 5 6 31) := by decide

theorem test_decode_load :
    decode .illegal 0b100000000001_00110_000_00101_0000011#32 = .instr (.lb 5 6 0x801) ∧
    decode .illegal 0b100000000001_00110_001_00101_0000011#32 = .instr (.lh 5 6 0x801) ∧
    decode .illegal 0b100000000001_00110_010_00101_0000011#32 = .instr (.lw 5 6 0x801) ∧
    decode .illegal 0b100000000001_00110_100_00101_0000011#32 = .instr (.lbu 5 6 0x801) ∧
    decode .illegal 0b100000000001_00110_101_00101_0000011#32 = .instr (.lhu 5 6 0x801) := by decide

/-- `imm[11:5] | rs2 | rs1 | funct3 | imm[4:0] | opcode` with imm = 0b1000001_00010, rs2 = 7, rs1 = 6. -/
theorem test_decode_store :
    decode .illegal 0b1000001_00111_00110_000_00010_0100011#32 = .instr (.sb 6 7 0b100000100010) ∧
    decode .illegal 0b1000001_00111_00110_001_00010_0100011#32 = .instr (.sh 6 7 0b100000100010) ∧
    decode .illegal 0b1000001_00111_00110_010_00010_0100011#32 = .instr (.sw 6 7 0b100000100010) := by decide

/-- `imm[12] | imm[10:5] | rs2 | rs1 | funct3 | imm[4:1] | imm[11] | opcode` with imm[12] = 0, imm[11] = 1,
imm[10:5] = 100001, imm[4:1] = 0010. -/
theorem test_decode_branch :
    decode .illegal 0b0_100001_00010_00001_000_0010_1_1100011#32 = .instr (.beq 1 2 0b0_1_100001_0010_0) ∧
    decode .illegal 0b0_100001_00010_00001_001_0010_1_1100011#32 = .instr (.bne 1 2 0b0_1_100001_0010_0) ∧
    decode .illegal 0b0_100001_00010_00001_100_0010_1_1100011#32 = .instr (.blt 1 2 0b0_1_100001_0010_0) ∧
    decode .illegal 0b0_100001_00010_00001_101_0010_1_1100011#32 = .instr (.bge 1 2 0b0_1_100001_0010_0) ∧
    decode .illegal 0b1_100001_00010_00001_110_0010_0_1100011#32 = .instr (.bltu 1 2 0b1_0_100001_0010_0) ∧
    decode .illegal 0b1_100001_00010_00001_111_0010_0_1100011#32 = .instr (.bgeu 1 2 0b1_0_100001_0010_0) := by decide

/-- JAL: `imm[20] | imm[10:1] | imm[11] | imm[19:12] | rd | opcode`. -/
theorem test_decode_jump_upper :
    decode .illegal 0b0_1000000001_1_10000010_00101_1101111#32 = .instr (.jal 5 0b0_10000010_1_1000000001_0) ∧
    decode .illegal 0b100000000001_00110_000_00101_1100111#32 = .instr (.jalr 5 6 0x801) ∧
    decode .illegal 0b10000000000000000001_00101_0110111#32 = .instr (.lui 5 0x80001) ∧
    decode .illegal 0b10000000000000000001_00101_0010111#32 = .instr (.auipc 5 0x80001) := by decide

theorem test_decode_system :
    decode .illegal 0b000000000000_00000_000_00000_1110011#32 = .instr .ecall ∧
    decode .illegal 0b000000000001_00000_000_00000_1110011#32 = .instr .ebreak ∧
    decode .illegal 0b001101000000_00110_001_00101_1110011#32 = .instr (.csrrw 5 6 0x340) ∧
    decode .illegal 0b001101000000_00110_010_00101_1110011#32 = .instr (.csrrs 5 6 0x340) ∧
    decode .illegal 0b001101000000_00110_011_00101_1110011#32 = .instr (.csrrc 5 6 0x340) ∧
    decode .illegal 0b001101000000_11111_101_00101_1110011#32 = .instr (.csrrwi 5 31 0x340) ∧
    decode .illegal 0b001101000000_11111_110_00101_1110011#32 = .instr (.csrrsi 5 31 0x340) ∧
    decode .illegal 0b001101000000_11111_111_00101_1110011#32 = .instr (.csrrci 5 31 0x340) := by decide

theorem test_decode_misc_mem :
    decode .nop 0b000011111111_00000_000_00000_0001111#32 = .instr (.fence 0 0 0x0FF) ∧
    decode .nop 0b000000000000_00000_001_00000_0001111#32 = .instr (.fenceI 0 0 0) ∧
    decode .nop 0x0000200F#32 = .illegal 0x0000200F#32 ∧
    decode .illegal 0x0000100F#32 = .illegal 0x0000100F#32 := by decide

/-- The ILLEGAL words of V-H and V-J: RV32M, a shift with a wrong funct7, RV64 forms, MRET, the compressed space, AMO. -/
theorem test_decode_illegal :
    ([0x00000000#32, 0xFFFFFFFF#32, 0x022081B3#32, 0x402091B3#32, 0x40009093#32, 0x0200D093#32, 0x0000B283#32,
      0x0000E283#32, 0x00733023#32, 0x00002063#32, 0x000090E7#32, 0x00000001#32, 0x0000000B#32, 0x1000A2AF#32, 0x002081BB#32,
      0x00002007#32, 0x000000F3#32, 0x00008073#32, 0x30200073#32, 0x10500073#32, 0x00004073#32, 0x0FF100CF#32].all
      fun w => decode .nop w == .illegal w) = true := by decide

/-- Words of the spec and the instructions they encode (V-C10, V-D5, V-E4, V-F2). -/
theorem test_encode_spec_words :
    encode (.lw 5 6 0xFFC) = 0xFFC32283#32 ∧ encode (.sh 6 7 0xFFF) = 0xFE731FA3#32 ∧
    encode (.bne 1 2 0x1FF8) = 0xFE209CE3#32 ∧ encode (.jal 0 0x1FFFFC) = 0xFFDFF06F#32 := by decide

theorem test_decode_table_word_reads_rows :
    decodeTableWord 32 0x40005033 = some (.sra 0 0 0) ∧ decodeTableWord 32 0x0000100F = some (.fenceI 0 0 0) := by decide

/-- "The rows do not overlap" (30_encoding.md): two rows of the table differ on a bit both masks fix. -/
theorem test_opcode_rows_disjoint :
    opcodeTable.Pairwise (fun a b => a.value &&& (a.mask &&& b.mask) ≠ b.value &&& (a.mask &&& b.mask)) := by decide

/-! ### The vectors' machine: CAP = 0x1000, unnamed bytes 0xEE, unnamed registers POISON -/

/-- The conventions of 95_test_vectors.md for V-A to V-J, with the instruction word at pc. -/
def vec (pc : Word) (regs : List (RegIdx × Word)) (bytes : List Host.Cell) (csrs : CsrStore) (fd : FenceDecode) (w : Word) :
    State :=
  let cfg : Config :=
    { memReq := 0x1000, memFill := 0xEE, entryPc := 0, execLimit := 0, traceEn := false, csrInit := csrs, fenceDecode := fd }
  let s := regs.foldl (fun s e => s.setReg e.1 e.2) { State.init cfg with pc := pc }
  placeAtPc (bytes.foldl (fun s c => s.writeByte c.1 c.2) s) w

/-- An observation of the state one step later. -/
def after {α : Type} (s : State) (f : State → α) : Option α :=
  match step s with
  | .next t => some (f t)
  | .fault _ => none
  | .refused _ => none

/-- What every vector states: pc, retired, run state and warnings. -/
def status (t : State) : Word × BitVec 64 × RunState × List Warning := (t.pc, t.retired, t.runState, t.warnings)

/-! ### Vectors of 95_test_vectors.md: register-register ALU (V-A) -/

/-- V-A1: `add x3, x1, x2`. -/
theorem test_add_VA1 : after (vec 0x100 [(1, 0x7FFFFFFF), (2, 0x00000001)] [] [] .illegal 0x002081B3) (fun t => (t.reg 3, status t)) =
    some (0x80000000, (0x00000104, 1, .running, [])) := by decide

/-- V-A4: `add x0, x1, x2`. -/
theorem test_add_VA4 : after (vec 0x100 [(1, 0x00000005), (2, 0x00000006)] [] [] .illegal 0x00208033) (fun t => (t.reg 0, status t)) =
    some (0x00000000, (0x00000104, 1, .running, [])) := by decide

/-- V-A6: `sub x3, x1, x2`. -/
theorem test_sub_VA6 : after (vec 0x100 [(1, 0x00000000), (2, 0x00000001)] [] [] .illegal 0x402081B3) (fun t => (t.reg 3, status t)) =
    some (0xFFFFFFFF, (0x00000104, 1, .running, [])) := by decide

/-- V-A7: `sub x3, x1, x2`. -/
theorem test_sub_VA7 : after (vec 0x100 [(1, 0x80000000), (2, 0x00000001)] [] [] .illegal 0x402081B3) (fun t => (t.reg 3, status t)) =
    some (0x7FFFFFFF, (0x00000104, 1, .running, [])) := by decide

/-- V-A10: `sll x3, x1, x2`. -/
theorem test_sll_VA10 : after (vec 0x100 [(1, 0x00000001), (2, 0x00000020)] [] [] .illegal 0x002091B3) (fun t => (t.reg 3, status t)) =
    some (0x00000001, (0x00000104, 1, .running, [])) := by decide

/-- V-A11: `sll x3, x1, x2`. -/
theorem test_sll_VA11 : after (vec 0x100 [(1, 0x00000003), (2, 0xFFFFFFE1)] [] [] .illegal 0x002091B3) (fun t => (t.reg 3, status t)) =
    some (0x00000006, (0x00000104, 1, .running, [])) := by decide

/-- V-A13: `slt x3, x1, x2`. -/
theorem test_slt_VA13 : after (vec 0x100 [(1, 0x00000001), (2, 0xFFFFFFFF)] [] [] .illegal 0x0020A1B3) (fun t => (t.reg 3, status t)) =
    some (0x00000000, (0x00000104, 1, .running, [])) := by decide

/-- V-A14: `slt x3, x1, x2`. -/
theorem test_slt_VA14 : after (vec 0x100 [(1, 0x80000000), (2, 0x7FFFFFFF)] [] [] .illegal 0x0020A1B3) (fun t => (t.reg 3, status t)) =
    some (0x00000001, (0x00000104, 1, .running, [])) := by decide

/-- V-A17: `sltu x3, x1, x2`. -/
theorem test_sltu_VA17 : after (vec 0x100 [(1, 0xFFFFFFFF), (2, 0x00000001)] [] [] .illegal 0x0020B1B3) (fun t => (t.reg 3, status t)) =
    some (0x00000000, (0x00000104, 1, .running, [])) := by decide

/-- V-A18: `sltu x3, x0, x2`. -/
theorem test_sltu_VA18 : after (vec 0x100 [(2, 0x00000005)] [] [] .illegal 0x002031B3) (fun t => (t.reg 3, status t)) =
    some (0x00000001, (0x00000104, 1, .running, [])) := by decide

/-- V-A20: `xor x3, x1, x2`. -/
theorem test_xor_VA20 : after (vec 0x100 [(1, 0xFF00FF00), (2, 0x0FF00FF0)] [] [] .illegal 0x0020C1B3) (fun t => (t.reg 3, status t)) =
    some (0xF0F0F0F0, (0x00000104, 1, .running, [])) := by decide

/-- V-A22: `srl x3, x1, x2`. -/
theorem test_srl_VA22 : after (vec 0x100 [(1, 0x80000000), (2, 0x0000001F)] [] [] .illegal 0x0020D1B3) (fun t => (t.reg 3, status t)) =
    some (0x00000001, (0x00000104, 1, .running, [])) := by decide

/-- V-A23: `srl x3, x1, x2`. -/
theorem test_srl_VA23 : after (vec 0x100 [(1, 0x80000000), (2, 0x00000020)] [] [] .illegal 0x0020D1B3) (fun t => (t.reg 3, status t)) =
    some (0x80000000, (0x00000104, 1, .running, [])) := by decide

/-- V-A25: `sra x3, x1, x2`. -/
theorem test_sra_VA25 : after (vec 0x100 [(1, 0x7FFFFFFF), (2, 0x0000001F)] [] [] .illegal 0x4020D1B3) (fun t => (t.reg 3, status t)) =
    some (0x00000000, (0x00000104, 1, .running, [])) := by decide

/-- V-A26: `sra x3, x1, x2`. -/
theorem test_sra_VA26 : after (vec 0x100 [(1, 0x80000000), (2, 0x0000003F)] [] [] .illegal 0x4020D1B3) (fun t => (t.reg 3, status t)) =
    some (0xFFFFFFFF, (0x00000104, 1, .running, [])) := by decide

/-- V-A27: `or x3, x1, x2`. -/
theorem test_or_VA27 : after (vec 0x100 [(1, 0xFF00FF00), (2, 0x0FF00FF0)] [] [] .illegal 0x0020E1B3) (fun t => (t.reg 3, status t)) =
    some (0xFFF0FFF0, (0x00000104, 1, .running, [])) := by decide

/-- V-A28: `and x3, x1, x2`. -/
theorem test_and_VA28 : after (vec 0x100 [(1, 0xFF00FF00), (2, 0x0FF00FF0)] [] [] .illegal 0x0020F1B3) (fun t => (t.reg 3, status t)) =
    some (0x0F000F00, (0x00000104, 1, .running, [])) := by decide

/-! ### Vectors of 95_test_vectors.md: register-immediate ALU (V-B) -/

/-- V-B2: `addi x1, x0, -2048`. -/
theorem test_addi_VB2 : after (vec 0x100 [] [] [] .illegal 0x80000093) (fun t => (t.reg 1, status t)) =
    some (0xFFFFF800, (0x00000104, 1, .running, [])) := by decide

/-- V-B4: `addi x1, x2, 1`. -/
theorem test_addi_VB4 : after (vec 0x100 [(2, 0x7FFFFFFF)] [] [] .illegal 0x00110093) (fun t => (t.reg 1, status t)) =
    some (0x80000000, (0x00000104, 1, .running, [])) := by decide

/-- V-B8: `slti x3, x1, -1`. -/
theorem test_slti_VB8 : after (vec 0x100 [(1, 0xFFFFFFFF)] [] [] .illegal 0xFFF0A193) (fun t => (t.reg 3, status t)) =
    some (0x00000000, (0x00000104, 1, .running, [])) := by decide

/-- V-B9: `slti x3, x1, 0`. -/
theorem test_slti_VB9 : after (vec 0x100 [(1, 0x80000000)] [] [] .illegal 0x0000A193) (fun t => (t.reg 3, status t)) =
    some (0x00000001, (0x00000104, 1, .running, [])) := by decide

/-- V-B10: `sltiu x3, x1, -1`. -/
theorem test_sltiu_VB10 : after (vec 0x100 [(1, 0x00000005)] [] [] .illegal 0xFFF0B193) (fun t => (t.reg 3, status t)) =
    some (0x00000001, (0x00000104, 1, .running, [])) := by decide

/-- V-B12: `sltiu x3, x1, 1`. -/
theorem test_sltiu_VB12 : after (vec 0x100 [(1, 0x00000009)] [] [] .illegal 0x0010B193) (fun t => (t.reg 3, status t)) =
    some (0x00000000, (0x00000104, 1, .running, [])) := by decide

/-- V-B13: `xori x3, x1, -1`. -/
theorem test_xori_VB13 : after (vec 0x100 [(1, 0x0F0F0F0F)] [] [] .illegal 0xFFF0C193) (fun t => (t.reg 3, status t)) =
    some (0xF0F0F0F0, (0x00000104, 1, .running, [])) := by decide

/-- V-B15: `ori x3, x1, -2048`. -/
theorem test_ori_VB15 : after (vec 0x100 [(1, 0x00000000)] [] [] .illegal 0x8000E193) (fun t => (t.reg 3, status t)) =
    some (0xFFFFF800, (0x00000104, 1, .running, [])) := by decide

/-- V-B17: `andi x3, x1, -16`. -/
theorem test_andi_VB17 : after (vec 0x100 [(1, 0x12345678)] [] [] .illegal 0xFF00F193) (fun t => (t.reg 3, status t)) =
    some (0x12345670, (0x00000104, 1, .running, [])) := by decide

/-- V-B18: `slli x3, x1, 31`. -/
theorem test_slli_VB18 : after (vec 0x100 [(1, 0x00000003)] [] [] .illegal 0x01F09193) (fun t => (t.reg 3, status t)) =
    some (0x80000000, (0x00000104, 1, .running, [])) := by decide

/-- V-B21: `srli x3, x1, 4`. -/
theorem test_srli_VB21 : after (vec 0x100 [(1, 0xF0000000)] [] [] .illegal 0x0040D193) (fun t => (t.reg 3, status t)) =
    some (0x0F000000, (0x00000104, 1, .running, [])) := by decide

/-- V-B22: `srai x3, x1, 31`. -/
theorem test_srai_VB22 : after (vec 0x100 [(1, 0x80000000)] [] [] .illegal 0x41F0D193) (fun t => (t.reg 3, status t)) =
    some (0xFFFFFFFF, (0x00000104, 1, .running, [])) := by decide

/-- V-B23: `srai x3, x1, 4`. -/
theorem test_srai_VB23 : after (vec 0x100 [(1, 0xF0000000)] [] [] .illegal 0x4040D193) (fun t => (t.reg 3, status t)) =
    some (0xFF000000, (0x00000104, 1, .running, [])) := by decide

/-! ### Vectors of 95_test_vectors.md: loads (V-C) -/

/-- V-C1: `lb x5, 0(x6)`. -/
theorem test_lb_VC1 : after (vec 0x100 [(6, 0x00000400)] [(0x400, 0x80), (0x401, 0xFF), (0x402, 0x34), (0x403, 0x12), (0x404, 0x7F)] [] .illegal 0x00030283) (fun t => (t.reg 5, status t)) =
    some (0xFFFFFF80, (0x00000104, 1, .running, [])) := by decide

/-- V-C14: `lb x5, 0(x6)`. -/
theorem test_lb_VC14 : after (vec 0x100 [(6, 0x00001000)] [] [] .illegal 0x00030283) (fun t => (t.reg 5, status t)) =
    some (0x00000000, (0x00000104, 1, .running, [⟨.read, 0x00001000, .byte⟩])) := by decide

/-- V-C3: `lbu x5, 0(x6)`. -/
theorem test_lbu_VC3 : after (vec 0x100 [(6, 0x00000400)] [(0x400, 0x80), (0x401, 0xFF), (0x402, 0x34), (0x403, 0x12), (0x404, 0x7F)] [] .illegal 0x00034283) (fun t => (t.reg 5, status t)) =
    some (0x00000080, (0x00000104, 1, .running, [])) := by decide

/-- V-C18: `lbu x5, 0(x6)`. -/
theorem test_lbu_VC18 : after (vec 0x100 [(6, 0xFFFFFFFF)] [] [] .illegal 0x00034283) (fun t => (t.reg 5, status t)) =
    some (0x00000000, (0x00000104, 1, .running, [⟨.read, 0xFFFFFFFF, .byte⟩])) := by decide

/-- V-C7: `lh x5, 1(x6)`. -/
theorem test_lh_VC7 : after (vec 0x100 [(6, 0x00000400)] [(0x400, 0x80), (0x401, 0xFF), (0x402, 0x34), (0x403, 0x12), (0x404, 0x7F)] [] .illegal 0x00131283) (fun t => (t.reg 5, status t)) =
    some (0x000034FF, (0x00000104, 1, .running, [])) := by decide

/-- V-C15: `lh x5, 0(x6)`. -/
theorem test_lh_VC15 : after (vec 0x100 [(6, 0x00000FFF)] [(0xFFF, 0x80)] [] .illegal 0x00031283) (fun t => (t.reg 5, status t)) =
    some (0x00000080, (0x00000104, 1, .running, [⟨.read, 0x00000FFF, .half⟩])) := by decide

/-- V-C6: `lhu x5, 0(x6)`. -/
theorem test_lhu_VC6 : after (vec 0x100 [(6, 0x00000400)] [(0x400, 0x80), (0x401, 0xFF), (0x402, 0x34), (0x403, 0x12), (0x404, 0x7F)] [] .illegal 0x00035283) (fun t => (t.reg 5, status t)) =
    some (0x0000FF80, (0x00000104, 1, .running, [])) := by decide

/-- V-C12: `lw x5, 0x301(x6)`. -/
theorem test_lw_VC12 : after (vec 0x100 [(6, 0xFFFFFFFF)] [(0x300, 0x93), (0x301, 0x00), (0x302, 0x10), (0x303, 0x00)] [] .illegal 0x30132283) (fun t => (t.reg 5, status t)) =
    some (0x00100093, (0x00000104, 1, .running, [])) := by decide

/-- V-C16: `lw x5, 0(x6)`. -/
theorem test_lw_VC16 : after (vec 0x100 [(6, 0x00000FFE)] [(0xFFE, 0x11), (0xFFF, 0x22)] [] .illegal 0x00032283) (fun t => (t.reg 5, status t)) =
    some (0x00002211, (0x00000104, 1, .running, [⟨.read, 0x00000FFE, .word⟩])) := by decide

/-! ### Vectors of 95_test_vectors.md: stores (V-D) -/

/-- V-D1: `sb x7, 0(x6)`. -/
theorem test_sb_VD1 : after (vec 0x100 [(6, 0x00000400), (7, 0x12345678)] [(0x400, 0x00), (0x401, 0x00)] [] .illegal 0x00730023) (fun t => (t.readByte 0x400, status t)) =
    some (0x78, (0x00000104, 1, .running, [])) := by decide

/-- V-D9: `sb x7, 0(x6)`. -/
theorem test_sb_VD9 : after (vec 0x100 [(6, 0x00001000), (7, 0x12345678)] [] [] .illegal 0x00730023) (fun t => (status t)) =
    some ((0x00000104, 1, .running, [⟨.write, 0x00001000, .byte⟩])) := by decide

/-- V-D5: `sh x7, -1(x6)`. -/
theorem test_sh_VD5 : after (vec 0x100 [(6, 0x00000400), (7, 0x12345678)] [] [] .illegal 0xFE731FA3) (fun t => ([t.readByte 0x3FF, t.readByte 0x400], status t)) =
    some ([0x78, 0x56], (0x00000104, 1, .running, [])) := by decide

/-- V-D7: `sw x7, 2(x6)`. -/
theorem test_sw_VD7 : after (vec 0x100 [(6, 0x00000FFC), (7, 0x12345678)] [] [] .illegal 0x00732123) (fun t => ([t.readByte 0xFFE, t.readByte 0xFFF], status t)) =
    some ([0x78, 0x56], (0x00000104, 1, .running, [⟨.write, 0x00000FFE, .word⟩])) := by decide

/-- V-D10: `sw x6, 0(x6)`. -/
theorem test_sw_VD10 : after (vec 0x100 [(6, 0x00000400)] [] [] .illegal 0x00632023) (fun t => ([t.readByte 0x400, t.readByte 0x401, t.readByte 0x402, t.readByte 0x403], status t)) =
    some ([0x00, 0x04, 0x00, 0x00], (0x00000104, 1, .running, [])) := by decide

/-! ### Vectors of 95_test_vectors.md: branches (V-E) -/

/-- V-E1: `beq x1, x2, 16`. -/
theorem test_beq_VE1 : after (vec 0x100 [(1, 0x00000003), (2, 0x00000003)] [] [] .illegal 0x00208863) (fun t => (status t)) =
    some ((0x00000110, 1, .running, [])) := by decide

/-- V-E3: `beq x0, x0, -256`. -/
theorem test_beq_VE3 : after (vec 0x100 [] [] [] .illegal 0xF00000E3) (fun t => (status t)) =
    some ((0x00000000, 1, .running, [])) := by decide

/-- V-E4: `bne x1, x2, -8`. -/
theorem test_bne_VE4 : after (vec 0x100 [(1, 0x00000003), (2, 0x00000004)] [] [] .illegal 0xFE209CE3) (fun t => (status t)) =
    some ((0x000000F8, 1, .running, [])) := by decide

/-- V-E5: `bne x1, x1, -8`. -/
theorem test_bne_VE5 : after (vec 0x100 [(1, 0x00000003)] [] [] .illegal 0xFE109CE3) (fun t => (status t)) =
    some ((0x00000104, 1, .running, [])) := by decide

/-- V-E6: `blt x1, x2, 8`. -/
theorem test_blt_VE6 : after (vec 0x100 [(1, 0xFFFFFFFF), (2, 0x00000001)] [] [] .illegal 0x0020C463) (fun t => (status t)) =
    some ((0x00000108, 1, .running, [])) := by decide

/-- V-E7: `blt x1, x2, 8`. -/
theorem test_blt_VE7 : after (vec 0x100 [(1, 0x00000001), (2, 0xFFFFFFFF)] [] [] .illegal 0x0020C463) (fun t => (status t)) =
    some ((0x00000104, 1, .running, [])) := by decide

/-- V-E10: `bge x1, x2, 8`. -/
theorem test_bge_VE10 : after (vec 0x100 [(1, 0x00000005), (2, 0x00000005)] [] [] .illegal 0x0020D463) (fun t => (status t)) =
    some ((0x00000108, 1, .running, [])) := by decide

/-- V-E11: `bge x1, x2, 8`. -/
theorem test_bge_VE11 : after (vec 0x100 [(1, 0x7FFFFFFF), (2, 0x80000000)] [] [] .illegal 0x0020D463) (fun t => (status t)) =
    some ((0x00000108, 1, .running, [])) := by decide

/-- V-E12: `bltu x1, x2, 8`. -/
theorem test_bltu_VE12 : after (vec 0x100 [(1, 0xFFFFFFFF), (2, 0x00000001)] [] [] .illegal 0x0020E463) (fun t => (status t)) =
    some ((0x00000104, 1, .running, [])) := by decide

/-- V-E13: `bltu x1, x2, 8`. -/
theorem test_bltu_VE13 : after (vec 0x100 [(1, 0x00000001), (2, 0xFFFFFFFF)] [] [] .illegal 0x0020E463) (fun t => (status t)) =
    some ((0x00000108, 1, .running, [])) := by decide

/-- V-E15: `bgeu x1, x2, 8`. -/
theorem test_bgeu_VE15 : after (vec 0x100 [(1, 0xFFFFFFFF), (2, 0x00000001)] [] [] .illegal 0x0020F463) (fun t => (status t)) =
    some ((0x00000108, 1, .running, [])) := by decide

/-- V-E17: `bgeu x1, x2, 8`. -/
theorem test_bgeu_VE17 : after (vec 0x100 [(1, 0x00000001), (2, 0x00000002)] [] [] .illegal 0x0020F463) (fun t => (status t)) =
    some ((0x00000104, 1, .running, [])) := by decide

/-! ### Vectors of 95_test_vectors.md: jumps (V-F) -/

/-- V-F1: `jal x1, 2048`. -/
theorem test_jal_VF1 : after (vec 0x100 [] [] [] .illegal 0x001000EF) (fun t => (t.reg 1, status t)) =
    some (0x00000104, (0x00000900, 1, .running, [])) := by decide

/-- V-F2: `jal x0, -4`. -/
theorem test_jal_VF2 : after (vec 0x100 [] [] [] .illegal 0xFFDFF06F) (fun t => (t.reg 0, status t)) =
    some (0x00000000, (0x000000FC, 1, .running, [])) := by decide

/-- V-F7: `jalr x1, 4(x5)`. -/
theorem test_jalr_VF7 : after (vec 0x100 [(5, 0x00000301)] [] [] .illegal 0x004280E7) (fun t => (t.reg 1, status t)) =
    some (0x00000104, (0x00000304, 1, .running, [])) := by decide

/-- V-F8: `jalr x5, 0(x5)`. -/
theorem test_jalr_VF8 : after (vec 0x100 [(5, 0x00000300)] [] [] .illegal 0x000282E7) (fun t => (t.reg 5, status t)) =
    some (0x00000104, (0x00000300, 1, .running, [])) := by decide

/-! ### Vectors of 95_test_vectors.md: upper immediates (V-G) -/

/-- V-G2: `lui x5, 0xFFFFF`. -/
theorem test_lui_VG2 : after (vec 0x100 [] [] [] .illegal 0xFFFFF2B7) (fun t => (t.reg 5, status t)) =
    some (0xFFFFF000, (0x00000104, 1, .running, [])) := by decide

/-- V-G4: `lui x0, 0x5`. -/
theorem test_lui_VG4 : after (vec 0x100 [] [] [] .illegal 0x00005037) (fun t => (t.reg 0, status t)) =
    some (0x00000000, (0x00000104, 1, .running, [])) := by decide

/-- V-G7: `auipc x5, 0xFFFFF`. -/
theorem test_auipc_VG7 : after (vec 0x100 [] [] [] .illegal 0xFFFFF297) (fun t => (t.reg 5, status t)) =
    some (0xFFFFF100, (0x00000104, 1, .running, [])) := by decide

/-- V-G8: `auipc x5, 0x80000`. -/
theorem test_auipc_VG8 : after (vec 0x00000FFC [] [] [] .illegal 0x80000297) (fun t => (t.reg 5, status t)) =
    some (0x80000FFC, (0x00001000, 1, .running, [])) := by decide

/-! ### Vectors of 95_test_vectors.md: system and CSR (V-H) -/

/-- V-H1: `ecall`. -/
theorem test_ecall_VH1 : after (vec 0x100 [] [] [] .illegal 0x00000073) (fun t => (status t)) =
    some ((0x00000100, 1, .halted .ecall, [])) := by decide

/-- V-H2: `ebreak`. -/
theorem test_ebreak_VH2 : after (vec 0x100 [] [] [] .illegal 0x00100073) (fun t => (status t)) =
    some ((0x00000100, 1, .halted .ebreak, [])) := by decide

/-- V-H5: `mret`. -/
theorem test_mret_VH5 : after (vec 0x100 [] [] [] .illegal 0x30200073) (fun t => (status t)) =
    some ((0x00000100, 0, .trapped (.illegalInstruction 0x00000100 0x30200073), [])) := by decide

/-- V-H7: `(SYSTEM funct3 100)`. -/
theorem test_system_VH7 : after (vec 0x100 [] [] [] .illegal 0x00004073) (fun t => (status t)) =
    some ((0x00000100, 0, .trapped (.illegalInstruction 0x00000100 0x00004073), [])) := by decide

/-- V-H9: `csrrw x6, 0x340, x6`. -/
theorem test_csrrw_VH9 : after (vec 0x100 [(6, 0x000000A0)] [] [(0x340, 0x0000000F)] .illegal 0x34031373) (fun t => ((t.reg 6, t.csr? 0x340), status t)) =
    some ((0x0000000F, some 0x000000A0), (0x00000104, 1, .running, [])) := by decide

/-- V-H20: `csrrw x5, 0x341, x6`. -/
theorem test_csrrw_VH20 : after (vec 0x100 [(5, 0x00000055), (6, 0x000000A0)] [] [(0x340, 0x0000000F)] .illegal 0x341312F3) (fun t => ((t.reg 5, t.csr? 0x340), status t)) =
    some ((0x00000055, some 0x0000000F), (0x00000104, 1, .running, [])) := by decide

/-- V-H11: `csrrs x5, 0x340, x6`. -/
theorem test_csrrs_VH11 : after (vec 0x100 [(6, 0x000000F0)] [] [(0x340, 0x0000000F)] .illegal 0x340322F3) (fun t => ((t.reg 5, t.csr? 0x340), status t)) =
    some ((0x0000000F, some 0x000000FF), (0x00000104, 1, .running, [])) := by decide

/-- V-H12: `csrrs x5, 0x340, x0`. -/
theorem test_csrrs_VH12 : after (vec 0x100 [] [] [(0x340, 0x0000000F)] .illegal 0x340022F3) (fun t => ((t.reg 5, t.csr? 0x340), status t)) =
    some ((0x0000000F, some 0x0000000F), (0x00000104, 1, .running, [])) := by decide

/-- V-H13: `csrrc x5, 0x340, x6`. -/
theorem test_csrrc_VH13 : after (vec 0x100 [(6, 0x00000003)] [] [(0x340, 0x0000000F)] .illegal 0x340332F3) (fun t => ((t.reg 5, t.csr? 0x340), status t)) =
    some ((0x0000000F, some 0x0000000C), (0x00000104, 1, .running, [])) := by decide

/-- V-H16: `csrrwi x5, 0x340, 0`. -/
theorem test_csrrwi_VH16 : after (vec 0x100 [] [] [(0x340, 0x0000000F)] .illegal 0x340052F3) (fun t => ((t.reg 5, t.csr? 0x340), status t)) =
    some ((0x0000000F, some 0x00000000), (0x00000104, 1, .running, [])) := by decide

/-- V-H17: `csrrsi x5, 0x340, 16`. -/
theorem test_csrrsi_VH17 : after (vec 0x100 [] [] [(0x340, 0x0000000F)] .illegal 0x340862F3) (fun t => ((t.reg 5, t.csr? 0x340), status t)) =
    some ((0x0000000F, some 0x0000001F), (0x00000104, 1, .running, [])) := by decide

/-- V-H19: `csrrci x5, 0x340, 1`. -/
theorem test_csrrci_VH19 : after (vec 0x100 [] [] [(0x340, 0x0000000F)] .illegal 0x3400F2F3) (fun t => ((t.reg 5, t.csr? 0x340), status t)) =
    some ((0x0000000F, some 0x0000000E), (0x00000104, 1, .running, [])) := by decide

/-! ### Vectors of 95_test_vectors.md: fences (V-I) -/

/-- V-I1: `fence iorw, iorw`. -/
theorem test_fence_VI1 : after (vec 0x100 [] [] [] .nop 0x0FF0000F) (fun t => (status t)) =
    some ((0x00000104, 1, .running, [])) := by decide

/-- V-I2: `fence iorw, iorw`. -/
theorem test_fence_VI2 : after (vec 0x100 [] [] [] .illegal 0x0FF0000F) (fun t => (status t)) =
    some ((0x00000100, 0, .trapped (.illegalInstruction 0x00000100 0x0FF0000F), [])) := by decide

/-- V-I3: `fence.i`. -/
theorem test_fenceIi_VI3 : after (vec 0x100 [] [] [] .nop 0x0000100F) (fun t => (status t)) =
    some ((0x00000104, 1, .running, [])) := by decide

/-! ### Vectors of 95_test_vectors.md: ILLEGAL words (V-J) -/

/-- V-J3: `mul x3, x1, x2 (RV32M)`. -/
theorem test_mul_VJ3 : after (vec 0x100 [] [] [] .illegal 0x022081B3) (fun t => (status t)) =
    some ((0x00000100, 0, .trapped (.illegalInstruction 0x00000100 0x022081B3), [])) := by decide

/-- V-J6: `(SRLI with word[25] = 1)`. -/
theorem test_SRLI_VJ6 : after (vec 0x100 [] [] [] .illegal 0x0200D093) (fun t => (status t)) =
    some ((0x00000100, 0, .trapped (.illegalInstruction 0x00000100 0x0200D093), [])) := by decide
/-! ### Fetch checks, limit, trace and reset (V-K, R900–R909, R1000, R1001) -/

/-- V-K1: a misaligned pc. -/
theorem test_misaligned_fetch_VK1 : after (vec 0x2 [] [] [] .illegal 0x00000073) status =
    some (0x2, 0, .trapped (.misalignedFetch 0x2), []) := by decide

/-- V-K2's case in the vectors' machine: pc = CAP. -/
theorem test_fetch_out_of_bounds_VK2 : after (vec 0x1000 [] [] [] .illegal 0x00000073) status =
    some (0x1000, 0, .trapped (.fetchOutOfBounds 0x1000), []) := by decide

/-- V-K3's case: the last word of memory is fetched. -/
theorem test_fetch_last_word_VK3 : after (vec 0xFFC [] [] [] .illegal 0x00000073) status =
    some (0xFFC, 1, .halted .ecall, []) := by decide

/-- The state of a vector with other parameters. -/
def withCfg (s : State) (f : Config → Config) : State := { s with cfg := f s.cfg }

/-- V-K4: CAP = 0. -/
theorem test_capacity_zero_VK4 : after (withCfg (vec 0 [] [] [] .illegal 0) fun c => { c with memReq := 0 }) status =
    some (0, 0, .trapped (.fetchOutOfBounds 0), []) := by decide

/-- V-K6: EXEC_LIMIT = 1 ends the run after one ADDI. -/
theorem test_limit_VK6 : after (withCfg (vec 0 [] [] [] .illegal 0x00100093) fun c => { c with execLimit := 1 })
    (fun t => (t.reg 1, status t)) = some (1, (0x4, 1, .halted .limitReached, [])) := by decide

/-- V-K8's last step: an ECALL that reaches the limit halts with Ecall. -/
theorem test_ecall_at_limit_VK8 : after (withCfg (vec 0 [] [] [] .illegal 0x00000073) fun c => { c with execLimit := 1 })
    status = some (0, 1, .halted .ecall, []) := by decide

/-- R901: a terminal state is left as it is. -/
theorem test_terminal_state_stays :
    after { vec 0 [] [] [] .illegal 0x00100093 with runState := .halted .ebreak } (fun t => (t.reg 1, status t)) =
      some (0xF0F0F0F0, (0, 0, .halted .ebreak, [])) := by decide

/-- R930: the trace event, and its line for `addi x1, x0, 1` at pc = 0x100. -/
theorem test_trace_line :
    after (withCfg (vec 0x100 [] [] [] .illegal 0x00100093) fun c => { c with traceEn := true }) State.traceLines =
      some ["00000100: addi    x1,x0,0x001"] := by decide

/-- W3: the image bytes 93 00 10 00 are fetched at pc 0 as 0x00100093, and the byte above them is MEM_FILL. -/
theorem test_image_load_W3 :
    (State.resetWith { Config.atReset with memReq := 0x100 } (.bytes [0x93, 0x00, 0x10, 0x00])).toOption.map
      (fun s => (s.fetchWord, s.readByte 4, s.readByte 0x100, s.reg 0, s.reg 31)) =
      some (0x00100093, 0xA5, 0x00, 0, 0xF0F0F0F0) := by decide

/-- R1001: 17 bytes into CAP = 16 fail, 16 bytes load. -/
theorem test_image_too_large :
    loadStatus { Config.atReset with memReq := 1 } (.bytes (List.replicate 17 0)) = .failed .fileTooLarge ∧
    loadStatus { Config.atReset with memReq := 1 } (.bytes (List.replicate 16 0)) = .ok := by decide

theorem test_reset_memory_wf : Memory.wf State.reset.cfg.memFill State.reset.capacity State.reset.mem := by decide

/-- The host's placement: the very next step from reset runs the word. -/
theorem test_with_fetch_word_runs :
    after (State.reset.withFetchWord 32 0x0FF0000F) status = some (4, 1, .running, []) := by decide

/-- R910, R1003. -/
theorem test_status_ports_of_a_trap :
    after (vec 0x20 [] [] [] .illegal 0xFFFFFFFF) State.statusPorts =
      some ⟨2, none, some 2, some 0x20, some 0xFFFFFFFF⟩ := by decide

/-- R1006's example: the first line of the register dump right after reset. -/
theorem test_register_dump_first_line :
    regDumpLine State.reset 0 =
      "x0 00000000 x1 F0F0F0F0 x2 F0F0F0F0 x3 F0F0F0F0 x4 F0F0F0F0 x5 F0F0F0F0 x6 F0F0F0F0 x7 F0F0F0F0\n" := by decide

/-- R230: address, two groups of eight bytes, printable characters. -/
theorem test_memory_dump_line :
    memDumpLine (vec 0x10 [] [(0x14, 0x41), (0x1F, 0x7E)] [] .illegal 0x00100093) 1 =
      "00000010: 93 00 10 00 41 EE EE EE  EE EE EE EE EE EE EE 7E*....A..........~*" := by decide

/-- R346: one line of each operand shape. -/
theorem test_disassembly :
    [disasm 0x100 (.instr (.lw 5 6 0xFFC)), disasm 0x100 (.instr (.sw 6 7 2)), disasm 0x100 (.instr (.beq 1 2 16)),
     disasm 0x100 (.instr (.lui 5 0x12345)), disasm 0x100 (.instr (.srai 3 1 31)), disasm 0x100 (.instr (.csrrwi 5 31 0x340)),
     disasm 0x100 (.illegal 0xFFFFFFFF)] =
    ["lw      x5,0xFFC(x6)", "sw      x7,0x002(x6)", "beq     x1,x2,0x00000110", "lui     x5,0x12345",
     "srai    x3,x1,0x1F", "csrrwi  x5,0x340,0x1F", "illegal  0xFFFFFFFF"] := by decide

/-- R345's forms. -/
theorem test_assembler_text :
    [asmText (.add 3 1 2), asmText (.lw 5 6 0xFFC), asmText (.bne 1 2 0x1FF8), asmText .ecall, asmText (.csrrw 5 6 0x340)] =
    ["add x3, x1, x2", "lw x5, -4(x6)", "bne x1, x2, -8", "ecall", "csrrw x5, 0x340, x6"] := by decide

/-- R347: `li` above 12 bits, `unimp` = 0xC0001073, `fence` = 0x0FF0000F, `ret`. -/
theorem test_pseudo_expansions :
    Pseudo.expand (.li 5 0x12345FFF) = [.lui 5 0x12346, .addi 5 5 0xFFF] ∧
    (Pseudo.expand .unimp).map encode = [0xC0001073#32] ∧ (Pseudo.expand .fence).map encode = [0x0FF0000F#32] ∧
    (Pseudo.expand .ret).map encode = [0x00008067#32] := by decide

theorem test_abi_names : abiNames.lookup "a0" = some 10 ∧ abiNames.lookup "fp" = some 8 ∧ abiNames.lookup "t6" = some 31 := by
  decide


/-! ### Witnesses: for every statement with hypotheses, a state and operands that meet them all, at boundary values where it
has several clauses -/

/-- ADDI x1, x0, 1 at pc 0, Running, with one CSR. -/
def wAddi : State := vec 0 [] [] [(0x340, 0x0000000F)] .illegal 0x00100093

/-- The same block with other words at pc 0. -/
def wWord (w : Word) : State := vec 0 [] [] [(0x340, 0x0000000F)] .illegal w

/-- A block with EXEC_LIMIT = 2 that has retired `n` instructions. -/
def wLimit (n : BitVec 64) : State :=
  { withCfg wAddi (fun c => { c with execLimit := 2 }) with retired := n }

/-- A block at an odd multiple of 2, trapped there. -/
def wTrapped : State := { wAddi with pc := 2, runState := .trapped (.misalignedFetch 2) }

/-- A block trapped by the word at its pc. -/
def wTrappedWord : State := { wWord 0 with runState := .trapped (.illegalInstruction 0 0) }

/-- A block halted by its limit. -/
def wHalted : State := { wLimit 2 with runState := .halted .limitReached }

theorem witness_reset_leaves_table_values :
    [0x93#8, 0x00#8].length ≤ capacityOf Config.atReset ∧ (List.replicate 16 0#8).length ≤ capacityOf { Config.atReset with memReq := 16 } := by
  decide

theorem witness_load_failure_too_large :
    capacityOf { Config.atReset with memReq := 16 } < (List.replicate 17 0#8).length := by decide

theorem witness_load_failure_fits :
    (List.replicate 16 0#8).length ≤ capacityOf { Config.atReset with memReq := 16 } ∧
    ([] : List Byte).length ≤ capacityOf { Config.atReset with memReq := 0 } := by decide

theorem witness_reset_satisfies_invariant :
    { Config.atReset with memReq := 1 }.wf ∧
    ∃ s, State.resetWith { Config.atReset with memReq := 1 } (.bytes [0x93]) = .ok s := ⟨by decide, _, rfl⟩

theorem witness_capacity :
    16 ∣ (0x1000 : Nat) ∧ { Config.atReset with memReq := 0x100 }.memReq = 0x100 ∧ { Config.atReset with memReq := 1 }.memReq = 1 ∧
    ∃ t, step wAddi = .next t := ⟨by decide, rfl, rfl, _, rfl⟩

theorem witness_invariant : wAddi.Inv := ⟨by decide, by decide, by decide, by decide, .inl rfl⟩

theorem witness_step_keeps_invariant : wAddi.Inv ∧ ∃ t, step wAddi = .next t := ⟨witness_invariant, _, rfl⟩

theorem witness_step_keeps_pc_even :
    wAddi.pc.toNat % 2 = 0 ∧ (∃ t, step wAddi = .next t) ∧ wTrapped.pc.toNat % 2 = 0 ∧ ∃ t, step wTrapped = .next t :=
  ⟨rfl, ⟨_, rfl⟩, rfl, _, rfl⟩

theorem witness_canonical_memories :
    Memory.wf 0xEE 16 [(0, 1), (15, 2)] ∧ Memory.wf 0xEE 16 (Memory.set 0xEE [(15, 2)] 0 1) ∧
    ∀ a, Memory.get 0xEE a [(0, 1), (15, 2)] = Memory.get 0xEE a (Memory.set 0xEE [(15, 2)] 0 1) :=
  ⟨by decide, by decide, fun _ => rfl⟩

theorem witness_decode_of_encode :
    (Instr.jal 31 0x100000).wf = true ∧ (Instr.jal 31 0x100000).availableUnder .illegal = true ∧
    (Instr.fence 31 31 0xFFF).wf = true ∧ (Instr.fence 31 31 0xFFF).availableUnder .nop = true := by decide

theorem witness_encode_of_decode :
    decode .illegal 0xFFFFFFEF#32 = .instr (.jal 31 0x1FFFFE) ∧ decode .nop 0xFFFF8F8F#32 = .instr (.fence 31 31 0xFFF) := by
  decide

theorem witness_decode_picks :
    decode .illegal 0xFFFFFFEF#32 = .instr (.jal 31 0x1FFFFE) ∧ opcodeTable.contains ⟨"JAL", 0x0000006F#32, 0x0000007F#32, false⟩ = true := by
  decide

/-- One word for each clause, with the immediate at an end of its range. -/
theorem witness_immediates :
    decode .illegal 0x80000093#32 = .instr (.addi 1 0 0x800) ∧ decode .illegal 0x7FF32283#32 = .instr (.lw 5 6 0x7FF) ∧
    decode .illegal 0xFFF28067#32 = .instr (.jalr 0 5 0xFFF) ∧ decode .illegal 0x80732023#32 = .instr (.sw 6 7 0x800) ∧
    decode .illegal 0x80208063#32 = .instr (.beq 1 2 0x1000) ∧ decode .illegal 0xFFFFF2B7#32 = .instr (.lui 5 0xFFFFF) ∧
    decode .illegal 0x80000297#32 = .instr (.auipc 5 0x80000) ∧ decode .illegal 0x8000006F#32 = .instr (.jal 0 0x100000) := by
  decide

/-- One word for each clause, with its fields at the ends of their ranges. -/
theorem witness_operand_fields :
    decode .illegal 0x000F8FB3#32 = .instr (.add 31 31 0) ∧ decode .illegal 0xFFFF8F93#32 = .instr (.addi 31 31 0xFFF) ∧
    decode .illegal 0x41FFDF93#32 = .instr (.srai 31 31 31) ∧ decode .illegal 0xFFFFAFA3#32 = .instr (.sw 31 31 0xFFF) ∧
    decode .illegal 0x00000FB7#32 = .instr (.lui 31 0) ∧ decode .illegal 0xFFFF9FF3#32 = .instr (.csrrw 31 31 0xFFF) ∧
    decode .illegal 0xFFFFDFF3#32 = .instr (.csrrwi 31 31 0xFFF) ∧ decode .nop 0xFFFF9F8F#32 = .instr (.fenceI 31 31 0xFFF) := by
  decide

/-- MRET and the funct3 = 100 word, each at a Running block that passes its fetch checks. -/
theorem witness_undefined_system_words :
    ((0x30200073#32).extractLsb' 0 7 = 0b1110011#7 ∧ (0x30200073#32).extractLsb' 12 3 = 0b000#3 ∧
      0x30200073#32 ≠ 0x00000073#32 ∧ 0x30200073#32 ≠ 0x00100073#32) ∧
    ((0x00004073#32).extractLsb' 0 7 = 0b1110011#7 ∧ (0x00004073#32).extractLsb' 12 3 = 0b100#3) ∧
    (wWord 0x30200073).runState = .running ∧ (wWord 0x30200073).pc.toNat % 4 = 0 ∧
    (wWord 0x30200073).pc.toNat + 3 < (wWord 0x30200073).capacity ∧ (wWord 0x30200073).memRead32 (wWord 0x30200073).pc = 0x30200073 := by
  decide

/-- The block is Running and its fetch checks pass: premises of several statements. -/
abbrev Ready (s : State) : Prop := s.runState = .running ∧ s.pc.toNat % 4 = 0 ∧ s.pc.toNat + 3 < s.capacity

theorem witness_ready_at_last_word : Ready (vec 0xFFC [] [] [] .illegal 0x73) := by decide

theorem witness_step_runs_decoded_instruction :
    Ready wAddi ∧ decodeBytes wAddi.cfg.fenceDecode (wAddi.readByte wAddi.pc.toNat) (wAddi.readByte (wAddi.pc.toNat + 1))
      (wAddi.readByte (wAddi.pc.toNat + 2)) (wAddi.readByte (wAddi.pc.toNat + 3)) = .instr (.addi 1 0 1) ∧
    ∃ t, exec (.addi 1 0 1) { wAddi with trace := 
      if wAddi.cfg.traceEn then wAddi.trace ++ [⟨wAddi.pc, wAddi.memRead32 wAddi.pc⟩] else wAddi.trace } = .next t :=
  ⟨by decide, by decide, _, rfl⟩

theorem witness_terminal : wHalted.Terminal ∧ wTrapped.Terminal := ⟨by unfold State.Terminal; decide, by unfold State.Terminal; decide⟩

/-- pc = 2 traps; and a taken branch to a target that is 2 modulo 4 is a step from an aligned pc to a misaligned one. -/
theorem witness_misaligned_fetch :
    ({ wAddi with pc := 2 }.runState = .running ∧ { wAddi with pc := 2 }.pc.toNat % 4 ≠ 0) ∧
    ({ wAddi with pc := 0xFFFFFFFF }.pc.toNat % 4 ≠ 0) ∧
    ((wWord 0x00000163).pc.toNat % 4 = 0 ∧ after (wWord 0x00000163) (fun t => t.pc.toNat % 4) = some 2) ∧
    ∃ s, State.resetWith { Config.atReset with entryPc := 2 } (.bytes []) = .ok s := ⟨by decide, by decide, by decide, _, rfl⟩

/-- CAP = 0x1000 at pc = CAP and at the last address; CAP = 2^32 and CAP = 2^32 - 16 at pc = 0xFFFFFFFC; CAP = 0. -/
theorem witness_out_of_bounds_fetch :
    ({ wAddi with pc := 0x1000 }.runState = .running ∧ { wAddi with pc := 0x1000 }.pc.toNat % 4 = 0 ∧
      { wAddi with pc := 0x1000 }.capacity ≤ { wAddi with pc := 0x1000 }.pc.toNat + 3) ∧
    (wAddi.pc.toNat % 4 = 0 ∧ 0 < wAddi.capacity) ∧
    (State.reset.cfg.wf ∧ { State.reset with pc := 0xFFFFFFFC }.pc = 0xFFFFFFFC#32 ∧ State.reset.capacity = 2 ^ 32) ∧
    ({ Config.atReset with memReq := 2 ^ 32 - 16 }.wf ∧ capacityOf { Config.atReset with memReq := 2 ^ 32 - 16 } ≠ 2 ^ 32) ∧
    ((withCfg wAddi fun c => { c with memReq := 0 }).runState = .running ∧ (withCfg wAddi fun c => { c with memReq := 0 }).capacity = 0) := by
  decide

theorem witness_illegal_word :
    Ready (wWord 0) ∧ decode (wWord 0).cfg.fenceDecode ((wWord 0).memRead32 (wWord 0).pc) = .illegal ((wWord 0).memRead32 (wWord 0).pc) := by
  decide

theorem witness_halt :
    Ready (wWord 0x73) ∧ Ready (wWord 0x100073) ∧ decode (wWord 0x73).cfg.fenceDecode ((wWord 0x73).memRead32 (wWord 0x73).pc) = .instr .ecall ∧
    decode (wWord 0x100073).cfg.fenceDecode ((wWord 0x100073).memRead32 (wWord 0x100073).pc) = .instr .ebreak := by decide

theorem witness_limit_invariant : (wLimit 1).Inv :=
  ⟨by decide, by decide, by decide, by decide, .inr (by decide)⟩

/-- One below the limit, the limit reached, and no limit. -/
theorem witness_continue :
    (wLimit 1).Inv ∧ (decode (wLimit 1).cfg.fenceDecode ((wLimit 1).memRead32 (wLimit 1).pc) = .instr (.addi 1 0 1) ∧
      Ready (wLimit 1)) ∧
    (Instr.addi 1 0 1).isHalt = false ∧
    ((wLimit 1).cfg.execLimit ≠ 0#64 ∧ (wLimit 1).cfg.execLimit ≤ (wLimit 1).retired + 1#64) ∧
    ¬ ((wLimit 0).cfg.execLimit ≠ 0#64 ∧ (wLimit 0).cfg.execLimit ≤ (wLimit 0).retired + 1#64) ∧
    ¬ (wAddi.cfg.execLimit ≠ 0#64 ∧ wAddi.cfg.execLimit ≤ wAddi.retired + 1#64) :=
  ⟨witness_limit_invariant, by decide⟩

theorem witness_traps_precise :
    (wWord 0).runState = .running ∧ after (wWord 0) State.runState = some (.trapped (.illegalInstruction 0 0)) := by decide

theorem witness_trace : wAddi.runState = .running ∧ ∃ t, step wAddi = .next t := ⟨rfl, _, rfl⟩

/-- Two different states with the same rest. -/
theorem witness_outputs :
    wAddi.withoutOutputs = { withCfg wAddi (fun c => { c with traceEn := true }) with warnings := [⟨.read, 0x1000, .byte⟩] }.withoutOutputs ∧
    wAddi ≠ { withCfg wAddi (fun c => { c with traceEn := true }) with warnings := [⟨.read, 0x1000, .byte⟩] } := by decide

theorem witness_run_ends :
    (wLimit 1).Inv ∧ (wLimit 1).runState = .running ∧ (wLimit 1).cfg.execLimit ≠ 0#64 := ⟨witness_limit_invariant, by decide, by decide⟩

/-- Each run state the first clauses name. -/
theorem witness_status_ports_run_states :
    wAddi.runState = .running ∧ { wAddi with runState := .halted .ecall }.runState = .halted .ecall ∧
    { wAddi with runState := .halted .ebreak }.runState = .halted .ebreak ∧ wHalted.runState = .halted .limitReached ∧
    wTrapped.runState = .trapped (.misalignedFetch 2) ∧
    { wAddi with runState := .trapped (.fetchOutOfBounds 0x1000) }.runState = .trapped (.fetchOutOfBounds 0x1000) ∧
    wTrappedWord.runState = .trapped (.illegalInstruction 0 0) := by decide

/-- A trap record with a word, one without, and a halt reason, each in a state that meets the invariant. -/
theorem witness_status_ports :
    (wTrappedWord.Inv ∧ wTrappedWord.statusPorts.trapPc = some 0 ∧ wTrappedWord.statusPorts.trapWord = some 0) ∧
    (wTrapped.Inv ∧ wTrapped.statusPorts.trapPc = some 2) ∧ (wHalted.Inv ∧ wHalted.statusPorts.haltReason = some 2) :=
  ⟨⟨⟨by decide, by decide, by decide, by decide, ⟨rfl, by decide, by decide, by decide⟩⟩, by decide, by decide⟩,
   ⟨⟨by decide, by decide, by decide, by decide, ⟨rfl, by decide⟩⟩, by decide⟩,
   ⟨⟨by decide, by decide, by decide, by decide, ⟨by decide, by decide⟩⟩, by decide⟩⟩

theorem witness_register_zero :
    (∃ t, exec (.addi 0 0 1) wAddi = .next t) ∧ (Instr.addi 0 0 1).dest = some 0#5 := ⟨⟨_, rfl⟩, rfl⟩

/-- An instruction of each kind the clauses name. -/
theorem witness_only_named_state :
    (∃ t, exec (.addi 1 0 1) wAddi = .next t) ∧ (Instr.addi 1 0 1).dest ≠ some 2#5 ∧ (Instr.addi 1 0 1).isStore = false ∧
    (Instr.addi 1 0 1).isCsr = false ∧ (Instr.addi 1 0 1).isHalt = false ∧ (Instr.addi 1 0 1).accessesMemory = false ∧
    (Instr.addi 1 0 1).isControlTransfer = false ∧ Instr.ecall.isHalt = true ∧ ∃ t, exec .ecall wAddi = .next t :=
  ⟨⟨_, rfl⟩, by decide, rfl, rfl, rfl, rfl, rfl, rfl, _, rfl⟩

theorem witness_only_named_registers :
    3#5 ∉ (Instr.sw 6 7 0).sources ∧ (∃ t, exec (.sw 6 7 0) wAddi = .next t) ∧ 3#5 ∉ (Instr.add 3 1 2).sources ∧
    ∃ t, exec (.add 3 1 2) wAddi = .next t := ⟨by decide, ⟨_, rfl⟩, by decide, _, rfl⟩

theorem witness_memory_and_csrs :
    (∃ t, exec (.csrrw 5 6 0x340) wAddi = .next t) ∧ (Instr.csrrw 5 6 0x340).accessesMemory = false ∧
    (∃ t, exec (.lw 5 6 0) wAddi = .next t) ∧ (Instr.lw 5 6 0).isCsr = false := ⟨⟨_, rfl⟩, rfl, ⟨_, rfl⟩, rfl⟩

theorem witness_counter_and_run_state :
    (∃ t, exec (.beq 0 0 8) wAddi = .next t) ∧ ∃ t, exec .ebreak wAddi = .next t := ⟨⟨_, rfl⟩, _, rfl⟩

theorem witness_upper_lower : (31#5 : RegIdx) ≠ 0#5 := by decide

/-- The address of the first byte out of memory. -/
theorem witness_loads : (0x1000#32 : Word) = loadAddr (wAddi.setReg 6 0xFFF) 6 1 := by decide

/-- The last address of the address space, from a negative offset. -/
theorem witness_stores : (0xFFFFFFFF#32 : Word) = storeAddr wAddi 0 0xFFF := by decide

/-- The last four bytes of memory, and a misaligned address. -/
theorem witness_mixed_widths :
    wAddi.cfg.memReq ≤ 2 ^ 32 ∧ (0xFFC#32 : Word).toNat + 3 < wAddi.capacity ∧ (0xFFC#32 : Word).toNat % 4 = 0 ∧
    (0x401#32 : Word).toNat + 3 < wAddi.capacity ∧ (0x401#32 : Word).toNat % 4 ≠ 0 := by decide

theorem witness_csr_read_modify_write : wAddi.csr? 0x340 = some 0x0000000F := by decide

theorem witness_unsupported_csr :
    wAddi.Inv ∧ 0x341#12 ∉ wAddi.cfg.csrInit.map (fun e => e.1) ∧ Instr.csrrci 5 31 0x341 = .csrrci 5 31 0x341#12 :=
  ⟨witness_invariant, by decide, rfl⟩

/-- A MISC-MEM word of each funct3 case. -/
theorem witness_misc_mem_words :
    ((0x0FF0000F#32).extractLsb' 0 7 = 0b0001111#7 ∧ (0x0FF0000F#32).extractLsb' 12 3 = 0b000#3) ∧
    ((0x0000100F#32).extractLsb' 0 7 = 0b0001111#7 ∧ (0x0000100F#32).extractLsb' 12 3 = 0b001#3) ∧
    ((0x0000700F#32).extractLsb' 0 7 = 0b0001111#7 ∧ (0x0000700F#32).extractLsb' 12 3 ≠ 0b000#3 ∧
      (0x0000700F#32).extractLsb' 12 3 ≠ 0b001#3) := by decide

end Sys2Proof.Tests
end

section
/-! PROOFS. The invariant of the block: every step keeps it (10_state.md R140; 60_exceptions.md R900–R909). -/

namespace Sys2Proof.Machine

/-! ### The fetch depends on pc, the parameters and memory alone -/

theorem State.fetchTrap_congr {s t : State} (hc : t.cfg = s.cfg) (hp : t.pc = s.pc) : t.fetchTrap = s.fetchTrap := by
  simp [State.fetchTrap, hp, State.capacity_congr hc]

theorem State.fetchWord_congr {s t : State} (hc : t.cfg = s.cfg) (hm : t.mem = s.mem) (hp : t.pc = s.pc) :
    t.fetchWord = s.fetchWord := by
  simp [State.fetchWord, State.memRead32, hp, State.readByte_congr hc hm]

@[simp] theorem State.emitTrace_fetchTrap (s : State) (w : Word) : (s.emitTrace w).fetchTrap = s.fetchTrap :=
  State.fetchTrap_congr (by simp) (by simp)
@[simp] theorem State.emitTrace_fetchWord (s : State) (w : Word) : (s.emitTrace w).fetchWord = s.fetchWord :=
  State.fetchWord_congr (by simp) (by simp) (by simp)
@[simp] theorem State.takeTrap_fetchTrap (s : State) (t : Trap) : (s.takeTrap t).fetchTrap = s.fetchTrap := rfl
@[simp] theorem State.takeTrap_fetchWord (s : State) (t : Trap) : (s.takeTrap t).fetchWord = s.fetchWord := rfl
@[simp] theorem State.haltWith_fetchTrap (s : State) (r : HaltReason) : (s.haltWith r).fetchTrap = s.fetchTrap := rfl
@[simp] theorem State.haltWith_fetchWord (s : State) (r : HaltReason) : (s.haltWith r).fetchWord = s.fetchWord := rfl
@[simp] theorem State.retire_fetchTrap (s : State) : s.retire.fetchTrap = s.fetchTrap := rfl
@[simp] theorem State.retire_fetchWord (s : State) : s.retire.fetchWord = s.fetchWord := rfl

/-- The two traps of the fetch checks, each with the check that failed (R902, R903). -/
theorem State.fetchTrap_eq_some {s : State} {tr : Trap} (h : s.fetchTrap = some tr) :
    (tr = .misalignedFetch s.pc ∧ s.pc.toNat % 4 ≠ 0) ∨
      (tr = .fetchOutOfBounds s.pc ∧ s.pc.toNat % 4 = 0 ∧ s.capacity ≤ s.pc.toNat + 3) := by
  unfold State.fetchTrap at h
  split at h
  · next hm => injection h with h; exact .inl ⟨h.symm, hm⟩
  · next hm =>
    split at h
    · next hc => injection h with h; exact .inr ⟨h.symm, not_not.1 hm, hc⟩
    · cases h

/-! ### The run state agrees with the rest of the state -/

theorem State.recordOk_of_running {s : State} (hr : s.runState = .running) :
    s.recordOk ↔ s.cfg.execLimit = 0#64 ∨ s.retired < s.cfg.execLimit := by
  simp only [State.recordOk, hr]

theorem State.recordOk_of_limitReached {s : State} (hr : s.runState = .halted .limitReached) :
    s.recordOk ↔ s.cfg.execLimit ≠ 0#64 ∧ s.retired = s.cfg.execLimit := by
  simp only [State.recordOk, hr]

theorem State.recordOk_of_illegal {s : State} {p w : Word} (hr : s.runState = .trapped (.illegalInstruction p w)) :
    s.recordOk ↔ p = s.pc ∧ w = s.fetchWord ∧ s.fetchTrap = none ∧ decode s.cfg.fenceDecode w = .illegal w := by
  simp only [State.recordOk, hr]

/-- A trap of a fetch check leaves the record of that check. -/
theorem State.takeTrap_recordOk {s : State} {tr : Trap} (h : s.fetchTrap = some tr) : (s.takeTrap tr).recordOk := by
  obtain ⟨rfl, hm⟩ | ⟨rfl, hm, hc⟩ := State.fetchTrap_eq_some h
  · exact ⟨rfl, hm⟩
  · exact ⟨rfl, hm, hc⟩

/-- A halt leaves pc at the instruction that halted (R908), whatever the limit. -/
theorem State.haltWith_retire_recordOk {s : State} {i : Instr} {r : HaltReason}
    (hi : i = .ecall ∧ r = .ecall ∨ i = .ebreak ∧ r = .ebreak) (ht : s.fetchTrap = none)
    (hd : decode s.cfg.fenceDecode s.fetchWord = .instr i) : (s.haltWith r).retire.recordOk := by
  obtain ⟨rfl, rfl⟩ | ⟨rfl, rfl⟩ := hi <;> simp [State.recordOk, ht, hd]

/-- The limit test of R907 as an order on counters. -/
theorem limitReached_iff {limit n : BitVec 64} : limitReached limit n = true ↔ limit ≠ 0#64 ∧ limit ≤ n := by
  simp [limitReached]

/-- Counting a Continue: a Running block below its limit stays below it or halts exactly at it (R907, D8, D10). -/
theorem State.retire_recordOk {s : State} (hr : s.runState = .running) (h : s.recordOk) : s.retire.recordOk := by
  rw [State.recordOk_of_running hr] at h
  by_cases hl : limitReached s.cfg.execLimit (s.retired + 1#64) = true
  · have hhalt : s.retire.runState = .halted .limitReached := by simp [hr, hl]
    rw [State.recordOk_of_limitReached hhalt]
    obtain ⟨hne, hle⟩ := limitReached_iff.1 hl
    have hlt := h.resolve_left hne
    exact ⟨hne, by simp only [State.retire_retired, State.retire_cfg]; bv_omega⟩
  · have hrun : s.retire.runState = .running := by simp [hr, hl]
    rw [State.recordOk_of_running hrun]
    rw [limitReached_iff, not_and, BitVec.not_le] at hl
    exact or_iff_not_imp_left.2 hl

/-! ### Each kind of step keeps the invariant -/

/-- The invariant is about the parameters, memory, registers, CSRs and the record. -/
theorem State.Inv.of_storage {s t : State} (h : s.Inv) (hc : t.cfg = s.cfg) (hm : t.mem = s.mem) (hx : t.regs = s.regs)
    (hcsr : t.csrs = s.csrs) (hrec : t.recordOk) : t.Inv where
  cfg_wf := hc ▸ h.cfg_wf
  mem_wf := by rw [State.capacity_congr hc, hc, hm]; exact h.mem_wf
  x0_zero := by rw [hx]; exact h.x0_zero
  csr_impl := by rw [hcsr, hc]; exact h.csr_impl
  record := hrec

theorem exec_keeps_x0 {i : Instr} {s t : State} (h : exec i s = .next t) : t.regs[0] = s.regs[0] :=
  exec_keeps (P := fun u => u.regs[0] = s.regs[0]) h rfl
    (by simp) (by simp) (by simp) (by simp) (by simp) (by simp)

/-- No instruction adds an address to CSR_IMPL or removes one (R125). -/
theorem exec_keeps_csr_addresses {i : Instr} {s t : State} (h : exec i s = .next t) :
    t.csrs.map (fun e => e.1) = s.csrs.map (fun e => e.1) :=
  exec_keeps (P := fun u => u.csrs.map (fun e => e.1) = s.csrs.map (fun e => e.1)) h rfl
    (by simp) (by simp) (by simp) (by simp) (by simp) (by simp)

theorem exec_runState_of_not_halt {i : Instr} {s t : State} (h : exec i s = .next t) (hi : i.isHalt = false) :
    t.runState = s.runState :=
  exec_keeps (P := fun u => u.runState = s.runState) h rfl (by simp) (by simp) (by simp) (by simp) (by simp)
    (fun _ _ hhalt => by rcases hhalt with ⟨rfl, -⟩ | ⟨rfl, -⟩ <;> cases hi)

/-- A halting instruction does nothing but halt (R800, R908). -/
theorem exec_eq_haltWith {i : Instr} {s t : State} (h : exec i s = .next t) (hi : i.isHalt = true) :
    ∃ r, (i = .ecall ∧ r = .ecall ∨ i = .ebreak ∧ r = .ebreak) ∧ t = s.haltWith r := by
  cases i with
  | ecall => injection h with h; exact ⟨_, .inl ⟨rfl, rfl⟩, h.symm⟩
  | ebreak => injection h with h; exact ⟨_, .inr ⟨rfl, rfl⟩, h.symm⟩
  | _ => cases hi

/-- The record after an instruction has run and been counted. -/
theorem exec_retire_recordOk {i : Instr} {s t : State} (h : exec i s = .next t) (hr : s.runState = .running)
    (hrec : s.recordOk) (ht : s.fetchTrap = none) (hd : decode s.cfg.fenceDecode s.fetchWord = .instr i) :
    t.retire.recordOk := by
  cases hi : i.isHalt with
  | true =>
    obtain ⟨r, hir, rfl⟩ := exec_eq_haltWith h hi
    exact State.haltWith_retire_recordOk hir ht hd
  | false =>
    obtain ⟨hcfg, hret, -⟩ := exec_keeps_cfg h
    have hrun : t.runState = .running := (exec_runState_of_not_halt h hi).trans hr
    refine State.retire_recordOk hrun ?_
    rw [State.recordOk_of_running hrun, hcfg, hret]
    exact (State.recordOk_of_running hr).1 hrec

theorem exec_retire_inv {i : Instr} {s t : State} (h : exec i s = .next t) (hs : s.Inv) (hr : s.runState = .running)
    (ht : s.fetchTrap = none) (hd : decode s.cfg.fenceDecode s.fetchWord = .instr i) : t.retire.Inv where
  cfg_wf := (exec_keeps_cfg h).1 ▸ hs.cfg_wf
  mem_wf := by simpa using exec_keeps_mem_wf h hs.mem_wf
  x0_zero := (exec_keeps_x0 h).trans hs.x0_zero
  csr_impl := by
    rw [State.retire_csrs, State.retire_cfg, exec_keeps_csr_addresses h, (exec_keeps_cfg h).1]
    exact hs.csr_impl
  record := exec_retire_recordOk h hr hs.record ht hd

theorem State.Inv.emitTrace {s : State} (h : s.Inv) (hr : s.runState = .running) (w : Word) : (s.emitTrace w).Inv := by
  refine h.of_storage (by simp) (by simp) (by simp) (by simp) ?_
  rw [State.recordOk_of_running (by simpa using hr)]
  simpa using (State.recordOk_of_running hr).1 h.record

theorem State.Inv.takeTrap_illegal {s : State} (h : s.Inv) (ht : s.fetchTrap = none)
    (hd : decode s.cfg.fenceDecode s.fetchWord = .illegal s.fetchWord) :
    (s.takeTrap (.illegalInstruction s.pc s.fetchWord)).Inv :=
  h.of_storage rfl rfl rfl rfl ⟨rfl, rfl, ht, hd⟩

/-- Settles O5: a terminal state stays, a trap records the check that failed, and an instruction keeps what the named
operations keep. -/
theorem stepKeepsInvariant : Obligations.StepKeepsInvariant := by
  unfold Obligations.StepKeepsInvariant
  intro s t hs h
  obtain ⟨-, rfl⟩ | ⟨-, tr, ht, rfl⟩ | ⟨hr, ht, w, hd, rfl⟩ | ⟨hr, ht, i, u, hd, hu, rfl⟩ := step_cases h
  · exact hs
  · exact hs.of_storage rfl rfl rfl rfl (State.takeTrap_recordOk ht)
  · obtain rfl := decode_illegal_word hd
    simpa using (hs.emitTrace hr s.fetchWord).takeTrap_illegal (by simpa using ht) (by simpa using hd)
  · exact exec_retire_inv hu (hs.emitTrace hr _) (by simpa using hr) (by simpa using ht) (by simpa using hd)

end Sys2Proof.Machine
end

section
/-! PROOFS. Reset (10_state.md R150), memory in canonical form (R135, R136) and the status outputs (R140, R910, R1003). -/

namespace Sys2Proof.Machine

/-! ### Reset -/

/-- An image that fits loads over the low bytes of the fresh state (R218, R1000). -/
theorem State.resetWith_of_fits {cfg : Config} {img : List Byte} (h : img.length ≤ capacityOf cfg) :
    State.resetWith cfg (.bytes img) = .ok ((State.init cfg).writeBytes 0 img) := by
  simp [State.resetWith, Nat.not_lt.2 h]

/-- x1 to x31 hold POISON in the fresh state (R105). -/
theorem State.init_reg (cfg : Config) {r : RegIdx} (h : r ≠ 0#5) : (State.init cfg).reg r = Config.poison := by
  have hr : 0 ≠ r.toNat := fun e => h (BitVec.eq_of_toNat_eq e.symm)
  simp [State.reg, h, State.init, Vector.getElem_set_ne, hr]

/-- Every byte below CAP holds MEM_FILL in the fresh state (R136). -/
theorem State.init_readByte {cfg : Config} {a : Nat} (h : a < capacityOf cfg) :
    (State.init cfg).readByte a = cfg.memFill := by
  simp [State.readByte, State.capacity, State.init, Memory.get, h]

/-- Settles O1: the image's bytes are those of the load, and every other entry of the table is that of the fresh state. -/
theorem resetLeavesTableValues : Obligations.ResetLeavesTableValues := by
  unfold Obligations.ResetLeavesTableValues
  refine ⟨fun cfg img hfit => ⟨_, State.resetWith_of_fits hfit, ?_⟩, rfl⟩
  have himg (a : Nat) (h : a < img.length) : ((State.init cfg).writeBytes 0 img).readByte a = img[a] := by
    have hin := State.writeBytes_readByte_inside (State.init cfg) 0 a img h
    have hcap : a < (State.init cfg).capacity := h.trans_le hfit
    simpa [hcap] using hin
  have hfill (a : Nat) (ha : img.length ≤ a) (hc : a < capacityOf cfg) :
      ((State.init cfg).writeBytes 0 img).readByte a = cfg.memFill := by
    rw [State.writeBytes_readByte_outside _ _ _ _ (.inr (by omega)), State.init_readByte hc]
  have hregs (r : RegIdx) (hr : r ≠ 0#5) : ((State.init cfg).writeBytes 0 img).reg r = 0xF0F0F0F0#32 := by
    rw [State.writeBytes_reg, State.init_reg cfg hr]; rfl
  exact ⟨by simp [State.init], State.reg_zero _, hregs, by simp [State.init], himg, hfill, by simp [State.init],
    by simp [State.init], by simp [State.init], by simp [State.init], by simp [State.init]⟩

/-! ### The canonical form determines the list of cells -/

/-- The canonical form, cell by cell. -/
theorem Memory.wf_cons {fill : Byte} {cap k : Nat} {v : Byte} {m : Memory} :
    Memory.wf fill cap ((k, v) :: m) ↔ (∀ c ∈ m, k < c.1) ∧ v ≠ fill ∧ k < cap ∧ Memory.wf fill cap m := by
  simp only [Memory.wf, List.pairwise_cons, List.forall_mem_cons]
  tauto

/-- An address that no cell lists reads as MEM_FILL. -/
theorem Memory.get_of_unlisted {fill : Byte} {a : Nat} {m : Memory} (h : ∀ c ∈ m, a < c.1) : m.get fill a = fill := by
  induction m with
  | nil => rfl
  | cons c rest ih =>
    obtain ⟨k, v⟩ := c
    rw [List.forall_mem_cons] at h
    rw [Memory.get, if_neg h.1.ne', ih h.2]

@[simp] theorem Memory.get_head {fill : Byte} {k : Nat} {v : Byte} {m : Memory} : Memory.get fill k ((k, v) :: m) = v := by
  simp [Memory.get]

/-- Of two canonical memories that read alike, neither starts above the other's first cell. -/
theorem Memory.head_le {fill : Byte} {k l : Nat} {v w : Byte} {m n : Memory} (hv : v ≠ fill) (hn : ∀ c ∈ n, l < c.1)
    (h : ∀ a, Memory.get fill a ((k, v) :: m) = Memory.get fill a ((l, w) :: n)) : l ≤ k := by
  by_contra hlt
  rw [not_le] at hlt
  exact hv (calc
    v = Memory.get fill k ((k, v) :: m) := Memory.get_head.symm
    _ = Memory.get fill k ((l, w) :: n) := h k
    _ = fill := Memory.get_of_unlisted (List.forall_mem_cons.2 ⟨hlt, fun c hc => hlt.trans (hn c hc)⟩))

theorem Memory.eq_of_get_eq {fill : Byte} {cap : Nat} {m n : Memory} (hm : Memory.wf fill cap m)
    (hn : Memory.wf fill cap n) (h : ∀ a, m.get fill a = n.get fill a) : m = n := by
  induction m generalizing n with
  | nil =>
    cases n with
    | nil => rfl
    | cons d n =>
      obtain ⟨l, w⟩ := d
      obtain ⟨-, hw, -, -⟩ := Memory.wf_cons.1 hn
      exact absurd (Memory.get_head.symm.trans (h l).symm) hw
  | cons c m ih =>
    obtain ⟨k, v⟩ := c
    obtain ⟨hkm, hv, -, hm'⟩ := Memory.wf_cons.1 hm
    cases n with
    | nil => exact absurd (Memory.get_head.symm.trans (h k)) hv
    | cons d n =>
      obtain ⟨l, w⟩ := d
      obtain ⟨hln, hw, -, hn'⟩ := Memory.wf_cons.1 hn
      obtain rfl : k = l := le_antisymm (Memory.head_le hw hkm fun a => (h a).symm) (Memory.head_le hv hln h)
      obtain rfl : v = w := by simpa using h k
      have htail (a : Nat) : Memory.get fill a m = Memory.get fill a n := by
        by_cases hka : k = a
        · subst hka; rw [Memory.get_of_unlisted hkm, Memory.get_of_unlisted hln]
        · simpa [Memory.get, hka] using h a
      rw [ih hm' hn' htail]

/-- Settles O7: the first cells agree, since each is seen by reading, and so do the rest. -/
theorem canonicalMemoriesThatReadAlikeAreEqual : Obligations.CanonicalMemoriesThatReadAlikeAreEqual := by
  unfold Obligations.CanonicalMemoriesThatReadAlikeAreEqual
  intro fill cap m n hm hn h
  exact Memory.eq_of_get_eq hm hn h

/-! ### The status outputs -/

theorem State.statusPorts_of_running {s : State} (h : s.runState = .running) :
    s.statusPorts = ⟨0, none, none, none, none⟩ := by
  simp only [State.statusPorts, h, runStateCode]

theorem State.statusPorts_of_halted {s : State} {r : HaltReason} (h : s.runState = .halted r) :
    s.statusPorts = ⟨1, some (haltReasonCode r), none, none, none⟩ := by
  simp only [State.statusPorts, h, runStateCode]

theorem State.statusPorts_of_trapped {s : State} {tr : Trap} (h : s.runState = .trapped tr) :
    s.statusPorts = ⟨2, none, some (trapCauseCode tr.cause), some tr.pc, tr.word?⟩ := by
  simp only [State.statusPorts, h, runStateCode]

/-- The code 0 stands for Running alone (R910). -/
theorem State.statusPorts_runState_eq_zero (s : State) : s.statusPorts.runState = 0 ↔ s.runState = .running := by
  cases h : s.runState with
  | running => simp [State.statusPorts_of_running h]
  | halted r => simp [State.statusPorts_of_halted h]
  | trapped tr => simp [State.statusPorts_of_trapped h]

/-- In a state that meets the invariant the pc of the trap record is the pc (R140). -/
theorem State.Inv.trap_pc {s : State} (hs : s.Inv) {tr : Trap} (h : s.runState = .trapped tr) : tr.pc = s.pc := by
  have hrec := hs.record
  simp only [State.recordOk, h] at hrec
  cases tr with
  | misalignedFetch p => exact hrec.1
  | fetchOutOfBounds p => exact hrec.1
  | illegalInstruction p w => exact hrec.1

/-- In a state that meets the invariant the word of the trap record is the fetched, ILLEGAL word (R140, R909). -/
theorem State.Inv.trap_word {s : State} (hs : s.Inv) {tr : Trap} {w : Word} (h : s.runState = .trapped tr)
    (hw : tr.word? = some w) : w = s.fetchWord ∧ decode s.cfg.fenceDecode w = .illegal w := by
  cases tr with
  | misalignedFetch p => cases hw
  | fetchOutOfBounds p => cases hw
  | illegalInstruction p v =>
    injection hw with hw
    subst hw
    obtain ⟨-, hfetch, -, hd⟩ := (State.recordOk_of_illegal h).1 hs.record
    exact ⟨hfetch, hd⟩

/-- A request for a step in a terminal state is ignored (R901, D28). -/
theorem step_of_terminal {s : State} (h : s.runState ≠ .running) : step s = .next s := by
  unfold step
  split
  · next hr => exact absurd hr h
  · rfl
  · rfl

/-- A Running block takes no step back to itself: a trap changes the run state and an instruction counts (R907–R909). -/
theorem step_ne_self_of_running {s : State} (hr : s.runState = .running) : step s ≠ .next s := by
  intro h
  obtain ⟨hn, -⟩ | ⟨-, tr, -, ht⟩ | ⟨-, -, w, -, ht⟩ | ⟨-, -, i, u, -, hu, ht⟩ := step_cases h
  · exact hn hr
  · rw [ht] at hr; cases hr
  · rw [ht] at hr; cases hr
  · have hret : s.retired = s.retired + 1#64 := by
      obtain ⟨-, hkept, -⟩ := exec_keeps_cfg hu
      rw [State.emitTrace_retired] at hkept
      rw [← hkept, ← State.retire_retired, ← ht, hkept]
    bv_omega

/-- The ports of each run state (R910, R1003). -/
theorem statusPorts_of_runState (s : State) :
    (s.runState = .running → s.statusPorts = ⟨0, none, none, none, none⟩) ∧
    (s.runState = .halted .ecall → s.statusPorts = ⟨1, some 0, none, none, none⟩) ∧
    (s.runState = .halted .ebreak → s.statusPorts = ⟨1, some 1, none, none, none⟩) ∧
    (s.runState = .halted .limitReached → s.statusPorts = ⟨1, some 2, none, none, none⟩) ∧
    (∀ p : Word, s.runState = .trapped (.misalignedFetch p) → s.statusPorts = ⟨2, none, some 0, some p, none⟩) ∧
    (∀ p : Word, s.runState = .trapped (.fetchOutOfBounds p) → s.statusPorts = ⟨2, none, some 1, some p, none⟩) ∧
    (∀ p w : Word, s.runState = .trapped (.illegalInstruction p w) →
      s.statusPorts = ⟨2, none, some 2, some p, some w⟩) :=
  ⟨State.statusPorts_of_running, State.statusPorts_of_halted, State.statusPorts_of_halted, State.statusPorts_of_halted,
    fun _ => State.statusPorts_of_trapped, fun _ => State.statusPorts_of_trapped, fun _ _ => State.statusPorts_of_trapped⟩

theorem State.statusPorts_trapPc {s : State} {p : Word} (h : s.statusPorts.trapPc = some p) :
    ∃ tr, s.runState = .trapped tr ∧ tr.pc = p := by
  cases hr : s.runState with
  | running => simp [State.statusPorts_of_running hr] at h
  | halted r => simp [State.statusPorts_of_halted hr] at h
  | trapped tr => exact ⟨tr, rfl, by simpa [State.statusPorts_of_trapped hr] using h⟩

theorem State.statusPorts_trapWord {s : State} {w : Word} (h : s.statusPorts.trapWord = some w) :
    ∃ tr, s.runState = .trapped tr ∧ tr.word? = some w := by
  cases hr : s.runState with
  | running => simp [State.statusPorts_of_running hr] at h
  | halted r => simp [State.statusPorts_of_halted hr] at h
  | trapped tr => exact ⟨tr, rfl, by simpa [State.statusPorts_of_trapped hr] using h⟩

/-- The code 2 of halt_reason stands for LimitReached alone (R910). -/
theorem State.statusPorts_limitReached {s : State} (h : s.statusPorts.haltReason = some 2) :
    s.runState = .halted .limitReached := by
  cases hr : s.runState with
  | running => simp [State.statusPorts_of_running hr] at h
  | halted r =>
    rw [State.statusPorts_of_halted hr] at h
    cases r with
    | limitReached => rfl
    | _ => cases h
  | trapped tr => simp [State.statusPorts_of_trapped hr] at h

/-- Settles O26: the ports of each run state, and what the record of the invariant says of a port that has a value. -/
theorem statusPortsReportTheRecord : Obligations.StatusPortsReportTheRecord := by
  unfold Obligations.StatusPortsReportTheRecord
  refine ⟨statusPorts_of_runState, fun s hs => ⟨fun p hp => ?_, fun w hw => ?_, fun hl => ?_, ?_⟩⟩
  · obtain ⟨tr, hr, rfl⟩ := State.statusPorts_trapPc hp
    exact hs.trap_pc hr
  · obtain ⟨tr, hr, htw⟩ := State.statusPorts_trapWord hw
    exact hs.trap_word hr htw
  · exact ((State.recordOk_of_limitReached (State.statusPorts_limitReached hl)).1 hs.record).2
  · rw [State.statusPorts_runState_eq_zero]
    exact ⟨step_ne_self_of_running, fun h => by_contra fun hr => h (step_of_terminal hr)⟩

end Sys2Proof.Machine
end

section
/-! PROOFS. The frame of every instruction (10_state.md R102, R103; 60_exceptions.md R906) and the effect of a branch
(42_control_transfer.md R600). -/

namespace Sys2Proof.Machine

/-! ### What an instruction leaves alone -/

theorem Instr.accessesMemory_of_isStore {i : Instr} (h : i.isStore = true) : i.accessesMemory = true := by
  cases i with
  | sb | sh | sw => rfl
  | _ => cases h

theorem exec_reg_of_ne_dest {i : Instr} {s t : State} {r : RegIdx} (h : exec i s = .next t) (hr : i.dest ≠ some r) :
    t.reg r = s.reg r :=
  exec_keeps (P := fun u => u.reg r = s.reg r) h rfl
    (fun u rd v hd hu => by
      have hne : r ≠ rd := fun e => hr (e ▸ hd)
      rw [State.setReg_reg_ne u v hne, hu])
    (by simp) (by simp) (by simp) (by simp) (by simp)

theorem exec_mem_of_not_store {i : Instr} {s t : State} (h : exec i s = .next t) (hi : i.isStore = false) :
    t.mem = s.mem :=
  exec_keeps (P := fun u => u.mem = s.mem) h rfl (by simp) (by simp) (by simp [hi]) (by simp) (by simp) (by simp)

theorem exec_csrs_of_not_csr {i : Instr} {s t : State} (h : exec i s = .next t) (hi : i.isCsr = false) :
    t.csrs = s.csrs :=
  exec_keeps (P := fun u => u.csrs = s.csrs) h rfl (by simp) (by simp) (by simp) (by simp) (by simp [hi]) (by simp)

theorem exec_warnings_of_no_access {i : Instr} {s t : State} (h : exec i s = .next t) (hi : i.accessesMemory = false) :
    t.warnings = s.warnings :=
  exec_keeps (P := fun u => u.warnings = s.warnings) h rfl (by simp) (by simp)
    (fun _ _ _ _ hst => by simp [Instr.accessesMemory_of_isStore hst] at hi) (by simp [hi]) (by simp) (by simp)

/-- pc moves to the next word, except at a transfer or a halt (R112). -/
theorem exec_pc {i : Instr} {s t : State} (h : exec i s = .next t) (hc : i.isControlTransfer = false)
    (hh : i.isHalt = false) : t.pc = s.pc + 4#32 := by
  cases i with
  | beq | bne | blt | bge | bltu | bgeu | jal | jalr => cases hc
  | ecall | ebreak => cases hh
  | lb | lh | lw | lbu | lhu => rw [writeRegNext_eq_next h]; simp
  | sb | sh | sw | fence | fenceI => injection h with h; rw [← h]; rfl
  | csrrw | csrrs | csrrc | csrrwi | csrrsi | csrrci =>
    simp only [exec, execCsrrw, execCsrrs, execCsrrc, execCsrrwi, execCsrrsi, execCsrrci] at h
    obtain ⟨old, -, rfl⟩ | ⟨-, rfl⟩ := csrReadModifyWrite_eq_next h <;> rfl
  | _ => rw [writeRegNext_eq_next h]; rfl

theorem exec_pc_of_halt {i : Instr} {s t : State} (h : exec i s = .next t) (hi : i.isHalt = true) : t.pc = s.pc := by
  obtain ⟨r, -, rfl⟩ := exec_eq_haltWith h hi
  rfl

/-- Settles O28: one frame lemma for each part of the state. -/
theorem onlyNamedStateChanges : Obligations.OnlyNamedStateChanges := by
  unfold Obligations.OnlyNamedStateChanges
  intro i s t h
  exact ⟨fun r => exec_reg_of_ne_dest h, exec_mem_of_not_store h, exec_csrs_of_not_csr h, exec_runState_of_not_halt h,
    exec_warnings_of_no_access h, exec_pc h, exec_pc_of_halt h, exec_keeps_cfg h⟩

/-- Settles O27: every read of x0 is 0, so an instruction with rd = x0 changes no register. -/
theorem registerZeroIsHardwired : Obligations.RegisterZeroIsHardwired := by
  unfold Obligations.RegisterZeroIsHardwired
  refine ⟨State.reg_zero, State.setReg_zero, fun i s t h => ⟨State.reg_zero t, fun hd r => ?_⟩⟩
  by_cases hr : r = 0#5
  · subst hr; rw [State.reg_zero, State.reg_zero]
  · exact exec_reg_of_ne_dest h (by simpa [hd] using Ne.symm hr)

/-! ### Branches -/

theorem onlyPcChanged_continueTo (s : State) (npc : Word) : OnlyPcChanged s (s.continueTo npc) where
  regs := State.continueTo_reg s npc
  run := ⟨rfl, rfl, rfl, rfl⟩
  bytes := State.continueTo_readByte s npc
  csrs := rfl
  warnings := rfl

/-- A word plus a sign-extended field is their sum as integers, modulo 2^32 (00_scope.md R10). -/
theorem toNat_add_signExtend {w : Nat} (x : Word) (y : BitVec w) :
    ((x + y.signExtend 32).toNat : Int) = (x.toNat + y.toInt) % 2 ^ 32 := by
  rw [BitVec.signExtend, BitVec.toNat_add, BitVec.toNat_ofInt]
  omega

/-- A branch on a condition: only pc changes, by the offset if the condition holds and else by 4 (R600, R601). -/
theorem branchIf_effect (s : State) (offset : BitVec 13) {taken : Bool} {P : Prop} [Decidable P] (hP : taken = true ↔ P) :
    ∃ t, branchIf s taken offset = .next t ∧ OnlyPcChanged s t ∧
      (t.pc.toNat : Int) = (s.pc.toNat + if P then offset.toInt else 4) % 2 ^ 32 := by
  refine ⟨_, rfl, onlyPcChanged_continueTo s _, ?_⟩
  simp only [State.continueTo_pc, hP]
  split
  · exact toNat_add_signExtend s.pc offset
  · simp

/-- Settles O41: each branch is `branchIf` on its condition. -/
theorem branchesMovePcOnly : Obligations.BranchesMovePcOnly := by
  unfold Obligations.BranchesMovePcOnly
  intro s rs1 rs2 offset
  refine ⟨branchIf_effect s offset ?_, branchIf_effect s offset ?_, branchIf_effect s offset ?_,
    branchIf_effect s offset ?_, branchIf_effect s offset ?_, branchIf_effect s offset ?_⟩
  · exact beq_iff_eq
  · exact bne_iff_ne
  · exact BitVec.slt_iff_toInt_lt
  · simp [lessSigned, BitVec.slt_eq_decide]
  · exact BitVec.ult_iff_toNat_lt
  · simp [lessUnsigned, BitVec.ult_eq_decide]

end Sys2Proof.Machine
end

section
/-! PROOFS. Noninterference: what an instruction and a step do not read (10_state.md R103, R125, R126, R135, R141, R145). One
principle, `exec_related`: a relation between two states that every named operation keeps holds after an instruction that reads
the same in both. -/

namespace Sys2Proof.Machine

/-! ### The named operations as updates of their fields -/

theorem State.setReg_eq (s : State) (i : RegIdx) (v : Word) :
    s.setReg i v = { s with regs := if i = 0#5 then s.regs else s.regs.set i.toNat v } := by
  unfold State.setReg; split <;> rfl

theorem State.warnIfOut_eq (s : State) (dir : AccessDir) (a : Word) (w : Width) :
    s.warnIfOut dir a w =
      { s with warnings := if s.outOfRange a w then s.warnings ++ [⟨dir, a, w⟩] else s.warnings } := by
  unfold State.warnIfOut; split <;> rfl

/-- The cells after a run of byte writes, from the cells before it (R206). -/
def Memory.store (fill : Byte) (cap : Nat) (m : Memory) (a : Nat) : List Byte → Memory
  | [] => m
  | b :: bs => Memory.store fill cap (if a < cap then m.set fill a b else m) (a + 1) bs

theorem State.writeByte_eq (s : State) (a : Nat) (b : Byte) :
    s.writeByte a b = { s with mem := if a < s.capacity then s.mem.set s.cfg.memFill a b else s.mem } := by
  unfold State.writeByte; split <;> rfl

theorem State.writeBytes_eq (s : State) (a : Nat) (bs : List Byte) :
    s.writeBytes a bs = { s with mem := Memory.store s.cfg.memFill s.capacity s.mem a bs } := by
  induction bs generalizing s a with
  | nil => rfl
  | cons b bs ih => rw [State.writeBytes, ih, State.writeByte_eq]; rfl

theorem State.memWrite_eq (s : State) (a : Word) (w : Width) (v : Word) :
    s.memWrite a w v =
      { s with
        mem := Memory.store s.cfg.memFill s.capacity s.mem a.toNat (lowBytes v w)
        warnings := if s.outOfRange a w then s.warnings ++ [⟨.write, a, w⟩] else s.warnings } := by
  rw [State.memWrite, State.warnIfOut_eq, State.writeBytes_eq]; rfl

/-! ### Two runs of one instruction -/

/-- Both results are next states, and the states are related. -/
def BothAnswer (R : State → State → Prop) (r r' : Result) : Prop :=
  ∃ t t', r = .next t ∧ r' = .next t' ∧ R t t'

/-- What an instruction reads is the same in both states: pc, its sources, memory if it is a load or store, and the CSR store
if it is a CSR instruction. -/
structure ReadsAlike (i : Instr) (s s' : State) : Prop where
  pc : s'.pc = s.pc
  sources : ∀ q ∈ i.sources, s'.reg q = s.reg q
  memory : i.accessesMemory = true → ∀ a, s'.readByte a = s.readByte a
  csrs : i.isCsr = true → s'.csrs = s.csrs

/-- The relation is kept by each named operation that the instruction may use. -/
structure Respects (i : Instr) (R : State → State → Prop) : Prop where
  setReg : ∀ {u u'} rd v, i.dest = some rd → R u u' → R (u.setReg rd v) (u'.setReg rd v)
  continueTo : ∀ {u u'} npc, i.isHalt = false → R u u' → R (u.continueTo npc) (u'.continueTo npc)
  memWrite : ∀ {u u'} a w v, i.isStore = true → R u u' → R (u.memWrite a w v) (u'.memWrite a w v)
  warnIfOut : ∀ {u u'} d a w, i.accessesMemory = true → R u u' → R (u.warnIfOut d a w) (u'.warnIfOut d a w)
  setCsr : ∀ {u u'} a v, i.isCsr = true → R u u' → R (u.setCsr a v) (u'.setCsr a v)
  haltWith : ∀ {u u'} r, i.isHalt = true → R u u' → R (u.haltWith r) (u'.haltWith r)

section
variable {i : Instr} {R : State → State → Prop} {s s' : State} {rd : RegIdx} {v v' : Word}

theorem Respects.related_writeRegNext (hR : Respects i R) (hd : i.dest = some rd) (hi : i.isHalt = false) (hs : R s s')
    (hpc : s'.pc = s.pc) (hv : v' = v) : BothAnswer R (writeRegNext s rd v) (writeRegNext s' rd v') := by
  subst hv
  exact ⟨_, _, rfl, rfl, hpc ▸ hR.continueTo _ hi (hR.setReg rd v' hd hs)⟩

theorem Respects.related_load (hR : Respects i R) (hd : i.dest = some rd) (hi : i.isHalt = false) (hm : i.accessesMemory = true)
    (hs : R s s') (hpc : s'.pc = s.pc) {a a' : Word} {w : Width} (ha : a' = a) (hv : v' = v) :
    BothAnswer R (writeRegNext (s.warnIfOut .read a w) rd v) (writeRegNext (s'.warnIfOut .read a' w) rd v') := by
  subst ha
  exact hR.related_writeRegNext hd hi (hR.warnIfOut _ _ _ hm hs) (by simpa using hpc) hv

theorem Respects.related_store (hR : Respects i R) (hi : i.isHalt = false) (hm : i.isStore = true) (hs : R s s')
    (hpc : s'.pc = s.pc) {a a' : Word} {w : Width} (ha : a' = a) (hv : v' = v) :
    BothAnswer R (.next ((s.memWrite a w v).continueTo (s.pc + 4#32)))
      (.next ((s'.memWrite a' w v').continueTo (s'.pc + 4#32))) := by
  subst ha hv
  exact ⟨_, _, rfl, rfl, hpc ▸ hR.continueTo _ hi (hR.memWrite _ _ _ hm hs)⟩

theorem Respects.related_linkAndJump (hR : Respects i R) (hd : i.dest = some rd) (hi : i.isHalt = false) (hs : R s s')
    (hpc : s'.pc = s.pc) (hv : v' = v) : BothAnswer R (linkAndJump s rd v) (linkAndJump s' rd v') := by
  subst hv
  exact ⟨_, _, rfl, rfl, hpc ▸ hR.continueTo _ hi (hR.setReg rd _ hd hs)⟩

theorem Respects.related_branchIf (hR : Respects i R) (hi : i.isHalt = false) (hs : R s s') (hpc : s'.pc = s.pc) {c c' : Bool}
    {offset : BitVec 13} (hc : c' = c) : BothAnswer R (branchIf s c offset) (branchIf s' c' offset) := by
  subst hc
  exact ⟨_, _, rfl, rfl, hpc ▸ hR.continueTo _ hi hs⟩

theorem Respects.related_csrReadModifyWrite (hR : Respects i R) (hd : i.dest = some rd) (hi : i.isHalt = false)
    (hm : i.isCsr = true) (hs : R s s') (hpc : s'.pc = s.pc) (hcsrs : s'.csrs = s.csrs) {a : CsrAddr}
    {f : Word → Word → Word} (hv : v' = v) :
    BothAnswer R (csrReadModifyWrite s rd a v f) (csrReadModifyWrite s' rd a v' f) := by
  subst hv
  unfold csrReadModifyWrite
  rw [State.csr?_congr hcsrs a, hpc]
  cases s.csr? a with
  | some old => exact ⟨_, _, rfl, rfl, hR.continueTo _ hi (hR.setReg rd old hd (hR.setCsr a _ hm hs))⟩
  | none => exact ⟨_, _, rfl, rfl, hR.continueTo _ hi hs⟩

/-- What every named operation keeps between two states that read alike, the instruction keeps; so it completes in both. -/
theorem exec_related (hR : Respects i R) (hs : R s s') (hread : ReadsAlike i s s') :
    BothAnswer R (exec i s) (exec i s') := by
  obtain ⟨hpc, hsrc, hmem, hcsrs⟩ := hread
  cases i with
  | add _ rs1 rs2 | sub _ rs1 rs2 | sll _ rs1 rs2 | slt _ rs1 rs2 | sltu _ rs1 rs2 | xor _ rs1 rs2 | srl _ rs1 rs2
  | sra _ rs1 rs2 | or _ rs1 rs2 | and _ rs1 rs2 =>
    exact hR.related_writeRegNext rfl rfl hs hpc (by rw [hsrc rs1 (.head _), hsrc rs2 (.tail _ (.head _))])
  | addi _ rs1 _ | slti _ rs1 _ | sltiu _ rs1 _ | xori _ rs1 _ | ori _ rs1 _ | andi _ rs1 _ | slli _ rs1 _
  | srli _ rs1 _ | srai _ rs1 _ => exact hR.related_writeRegNext rfl rfl hs hpc (by rw [hsrc rs1 (.head _)])
  | lb _ rs1 imm | lh _ rs1 imm | lw _ rs1 imm | lbu _ rs1 imm | lhu _ rs1 imm =>
    have ha : loadAddr s' rs1 imm = loadAddr s rs1 imm := by rw [loadAddr, loadAddr, hsrc rs1 (.head _)]
    exact hR.related_load rfl rfl rfl hs hpc ha
      (by simp only [ha, State.memRead8, State.memRead16, State.memRead32, hmem rfl])
  | sb rs1 rs2 imm | sh rs1 rs2 imm | sw rs1 rs2 imm =>
    exact hR.related_store rfl rfl hs hpc (by rw [storeAddr, storeAddr, hsrc rs1 (.head _)]) (hsrc rs2 (.tail _ (.head _)))
  | beq rs1 rs2 _ | bne rs1 rs2 _ | blt rs1 rs2 _ | bge rs1 rs2 _ | bltu rs1 rs2 _ | bgeu rs1 rs2 _ =>
    exact hR.related_branchIf rfl hs hpc (by rw [hsrc rs1 (.head _), hsrc rs2 (.tail _ (.head _))])
  | jal => exact hR.related_linkAndJump rfl rfl hs hpc (by rw [hpc])
  | jalr _ rs1 => exact hR.related_linkAndJump rfl rfl hs hpc (by rw [jalrTarget, jalrTarget, hsrc rs1 (.head _)])
  | lui => exact hR.related_writeRegNext rfl rfl hs hpc rfl
  | auipc => exact hR.related_writeRegNext rfl rfl hs hpc (by rw [hpc])
  | ecall | ebreak => exact ⟨_, _, rfl, rfl, hR.haltWith _ rfl hs⟩
  | csrrw _ rs1 | csrrs _ rs1 | csrrc _ rs1 =>
    simp only [exec, execCsrrw, execCsrrs, execCsrrc]
    exact hR.related_csrReadModifyWrite rfl rfl rfl hs hpc (hcsrs rfl) (hsrc rs1 (.head _))
  | csrrwi | csrrsi | csrrci =>
    simp only [exec, execCsrrwi, execCsrrsi, execCsrrci]
    exact hR.related_csrReadModifyWrite rfl rfl rfl hs hpc (hcsrs rfl) rfl
  | fence | fenceI => exact ⟨_, _, rfl, rfl, hpc ▸ hR.continueTo _ rfl hs⟩

theorem BothAnswer.of_next {r' : Result} {t : State} (h : BothAnswer R (.next t) r') : ∃ t', r' = .next t' ∧ R t t' := by
  obtain ⟨u, t', hu, ht', hR⟩ := h
  injection hu with hu
  exact ⟨t', ht', hu ▸ hR⟩
end

/-- A change of the state that every named operation of the instruction commutes with, and that it reads nothing of, commutes
with the instruction. -/
theorem exec_commutes {i : Instr} {f : State → State} {s t : State} (h : exec i s = .next t)
    (hf : Respects i fun u u' => u' = f u) (hread : ReadsAlike i s (f s)) : exec i (f s) = .next (f t) := by
  have hboth := exec_related hf rfl hread
  rw [h] at hboth
  obtain ⟨t', ht', rfl⟩ := hboth.of_next
  exact ht'

/-! ### Registers that are not named -/

/-- The two states differ at most in one register. -/
def DifferOnlyAt (r : RegIdx) (u u' : State) : Prop := u.setReg r 0#32 = u'.setReg r 0#32

theorem State.setReg_setReg_same (s : State) (r : RegIdx) (v w : Word) : (s.setReg r v).setReg r w = s.setReg r w := by
  by_cases h : r = 0#5 <;> simp [State.setReg, h]

theorem State.setReg_setReg_ne {q r : RegIdx} (s : State) (v w : Word) (h : q ≠ r) :
    (s.setReg q v).setReg r w = (s.setReg r w).setReg q v := by
  have hn : q.toNat ≠ r.toNat := fun e => h (BitVec.eq_of_toNat_eq e)
  by_cases hq : q = 0#5 <;> by_cases hr : r = 0#5 <;> simp [State.setReg, hq, hr]
  exact Vector.set_comm _ _ hn

theorem differOnlyAt_setReg (s : State) (r : RegIdx) (v : Word) : DifferOnlyAt r s (s.setReg r v) :=
  (State.setReg_setReg_same s r v 0#32).symm

theorem DifferOnlyAt.reg {r q : RegIdx} {u u' : State} (h : DifferOnlyAt r u u') (hq : q ≠ r) : u'.reg q = u.reg q := by
  rw [← State.setReg_reg_ne u 0#32 hq, ← State.setReg_reg_ne u' 0#32 hq, h]

/-- An update that commutes with a write of the register keeps the relation. -/
theorem DifferOnlyAt.of_comm {r : RegIdx} {u u' : State} {f : State → State} (h : DifferOnlyAt r u u')
    (hf : ∀ s, (f s).setReg r 0#32 = f (s.setReg r 0#32)) : DifferOnlyAt r (f u) (f u') := by
  unfold DifferOnlyAt at *
  rw [hf, hf, h]

/-- No named operation spreads a difference in one register to the rest of the state. -/
theorem respects_differOnlyAt (i : Instr) (r : RegIdx) : Respects i (DifferOnlyAt r) where
  setReg {u u'} rd v _ h := by
    by_cases hrd : rd = r
    · subst hrd
      unfold DifferOnlyAt at *
      rw [State.setReg_setReg_same, State.setReg_setReg_same, h]
    · exact h.of_comm fun s => State.setReg_setReg_ne s v 0#32 hrd
  continueTo npc _ h := h.of_comm (f := (State.continueTo · npc)) fun s => by simp only [State.setReg_eq]; rfl
  memWrite a w v _ h := h.of_comm (f := (State.memWrite · a w v)) fun s => by
    simp only [State.setReg_eq, State.memWrite_eq]; rfl
  warnIfOut d a w _ h := h.of_comm (f := (State.warnIfOut · d a w)) fun s => by
    simp only [State.setReg_eq, State.warnIfOut_eq]; rfl
  setCsr a v _ h := h.of_comm (f := (State.setCsr · a v)) fun s => by simp only [State.setReg_eq]; rfl
  haltWith q _ h := h.of_comm (f := (State.haltWith · q)) fun s => by simp only [State.setReg_eq]; rfl

/-- What two states that differ at most in one register have in common. -/
theorem DifferOnlyAt.rest {r : RegIdx} {u u' : State} (h : DifferOnlyAt r u u') :
    u'.pc = u.pc ∧ u'.mem = u.mem ∧ u'.csrs = u.csrs ∧ u'.runState = u.runState ∧ u'.warnings = u.warnings := by
  unfold DifferOnlyAt at h
  simp only [State.setReg_eq, State.mk.injEq] at h
  simp [h]

theorem readsAlike_setReg {i : Instr} {r : RegIdx} (s : State) (v : Word) (hr : r ∉ i.sources) :
    ReadsAlike i s (s.setReg r v) where
  pc := by simp
  sources q hq := State.setReg_reg_ne s v fun e => hr (e ▸ hq)
  memory _ a := by simp
  csrs _ := by simp

/-- Settles O29: the states before differ only in the register, and no operation of the instruction spreads that. -/
theorem onlyNamedRegistersAreRead : Obligations.OnlyNamedRegistersAreRead := by
  unfold Obligations.OnlyNamedRegistersAreRead
  intro i s t r v hr h
  have hboth := exec_related (respects_differOnlyAt i r) (differOnlyAt_setReg s r v) (readsAlike_setReg s v hr)
  rw [h] at hboth
  obtain ⟨u, hu, hdiff⟩ := hboth.of_next
  exact ⟨u, hu, fun q hq => hdiff.reg hq, hdiff.rest⟩

/-! ### Memory, the CSR store, the counter and the run state -/

theorem respects_withMem {i : Instr} (m : Memory) (hi : i.accessesMemory = false) :
    Respects i fun u u' => u' = { u with mem := m } where
  setReg rd v _ h := by subst h; simp only [State.setReg_eq]
  continueTo npc _ h := by subst h; rfl
  memWrite a w v hst _ := by simp [Instr.accessesMemory_of_isStore hst] at hi
  warnIfOut d a w hm _ := by simp [hi] at hm
  setCsr a v _ h := by subst h; rfl
  haltWith q _ h := by subst h; rfl

theorem respects_withCsrs {i : Instr} (c : CsrStore) (hi : i.isCsr = false) :
    Respects i fun u u' => u' = { u with csrs := c } where
  setReg rd v _ h := by subst h; simp only [State.setReg_eq]
  continueTo npc _ h := by subst h; rfl
  memWrite a w v _ h := by subst h; simp only [State.memWrite_eq]; rfl
  warnIfOut d a w _ h := by subst h; simp only [State.warnIfOut_eq]; rfl
  setCsr a v hc _ := by simp [hi] at hc
  haltWith q _ h := by subst h; rfl

theorem respects_withRetired (i : Instr) (n : BitVec 64) : Respects i fun u u' => u' = { u with retired := n } where
  setReg rd v _ h := by subst h; simp only [State.setReg_eq]
  continueTo npc _ h := by subst h; rfl
  memWrite a w v _ h := by subst h; simp only [State.memWrite_eq]; rfl
  warnIfOut d a w _ h := by subst h; simp only [State.warnIfOut_eq]; rfl
  setCsr a v _ h := by subst h; rfl
  haltWith q _ h := by subst h; rfl

theorem respects_withRunState {i : Instr} (r : RunState) (hi : i.isHalt = false) :
    Respects i fun u u' => u' = { u with runState := r } where
  setReg rd v _ h := by subst h; simp only [State.setReg_eq]
  continueTo npc _ h := by subst h; rfl
  memWrite a w v _ h := by subst h; simp only [State.memWrite_eq]; rfl
  warnIfOut d a w _ h := by subst h; simp only [State.warnIfOut_eq]; rfl
  setCsr a v _ h := by subst h; rfl
  haltWith q hh _ := by simp [hi] at hh

/-- Settles O30: replacing memory, or the CSR store, commutes with every instruction that does not access it. -/
theorem memoryAndCsrsReadOnlyByTheirInstructions : Obligations.MemoryAndCsrsReadOnlyByTheirInstructions := by
  unfold Obligations.MemoryAndCsrsReadOnlyByTheirInstructions
  refine fun i s t m c h => ⟨fun hi => ?_, fun hi => ?_⟩
  · exact exec_commutes (f := fun u => { u with mem := m }) h (respects_withMem m hi)
      ⟨rfl, fun _ _ => rfl, fun hm => by simp [hi] at hm, fun _ => rfl⟩
  · exact exec_commutes (f := fun u => { u with csrs := c }) h (respects_withCsrs c hi)
      ⟨rfl, fun _ _ => rfl, fun _ _ => rfl, fun hc => by simp [hi] at hc⟩

/-- A halting instruction overwrites the run state; every other one commutes with replacing it. -/
theorem exec_withRunState {i : Instr} {s t : State} (r : RunState) (h : exec i s = .next t) :
    exec i { s with runState := r } = .next { t with runState := if i.isHalt then t.runState else r } := by
  cases hi : i.isHalt with
  | true =>
    obtain ⟨q, ⟨rfl, rfl⟩ | ⟨rfl, rfl⟩, rfl⟩ := exec_eq_haltWith h hi <;> rfl
  | false =>
    exact exec_commutes (f := fun u => { u with runState := r }) h (respects_withRunState r hi)
      ⟨rfl, fun _ _ => rfl, fun _ _ => rfl, fun _ => rfl⟩

/-- Settles O31: replacing the counter commutes with every instruction, and replacing the run state with every one that does
not halt. -/
theorem counterAndRunStateAreNeverRead : Obligations.CounterAndRunStateAreNeverRead := by
  unfold Obligations.CounterAndRunStateAreNeverRead
  intro i s t n r h
  exact ⟨exec_commutes (f := fun u => { u with retired := n }) h (respects_withRetired i n)
    ⟨rfl, fun _ _ => rfl, fun _ _ => rfl, fun _ => rfl⟩, exec_withRunState r h⟩

end Sys2Proof.Machine
end

section
/-! PROOFS. The outputs never affect a run (10_state.md R145): the relation "alike but for the outputs" is kept by every named
operation, hence by exec, by a step and by any number of steps. -/

namespace Sys2Proof.Machine

/-! ### The step, forward -/

theorem step_of_running {s : State} (hr : s.runState = .running) : step s = runningStep s := by
  simp only [step, hr]

theorem runningStep_of_fetchTrap {s : State} {tr : Trap} (h : s.fetchTrap = some tr) :
    runningStep s = .next (s.takeTrap tr) := by
  simp only [runningStep, h]

theorem runningStep_of_fetch {s : State} (h : s.fetchTrap = none) :
    runningStep s = decodeAndExecute (s.emitTrace s.fetchWord) s.fetchWord := by
  simp only [runningStep, h]

theorem decodeAndExecute_of_illegal {s : State} {w v : Word} (h : decode s.cfg.fenceDecode w = .illegal v) :
    decodeAndExecute s w = .next (s.takeTrap (.illegalInstruction s.pc v)) := by
  simp only [decodeAndExecute, h]

theorem decodeAndExecute_of_instr {s : State} {w : Word} {i : Instr} (h : decode s.cfg.fenceDecode w = .instr i) :
    decodeAndExecute s w = retireResult (exec i s) := by
  simp only [decodeAndExecute, h]

/-- After a step that answers, a run goes on from its answer. -/
theorem coreRun_succ_of_step {M : Host.Core} {s t : M.State} (h : M.step s = .next t) (k : Nat) :
    M.run (k + 1) s = M.run k t := by
  rw [Host.Core.run, h]

theorem run_succ_of_step {s t : State} (h : step s = .next t) (k : Nat) :
    Host.Core.run Sys2Proof.core (k + 1) s = Host.Core.run Sys2Proof.core k t :=
  coreRun_succ_of_step (M := Sys2Proof.core) h k

/-! ### States alike but for their outputs -/

/-- The states differ at most in TRACE_EN and the two output streams. -/
def AlikeButOutputs (u u' : State) : Prop := u.withoutOutputs = u'.withoutOutputs

namespace AlikeButOutputs
variable {u u' : State}

/-- What is read of the rest of the state reads alike. -/
theorem read {α : Type} (h : AlikeButOutputs u u') (f : State → α) (hf : ∀ s, f s.withoutOutputs = f s) : f u' = f u := by
  rw [← hf u', ← h, hf u]

theorem pc (h : AlikeButOutputs u u') : u'.pc = u.pc := h.read State.pc fun _ => rfl

theorem csrs (h : AlikeButOutputs u u') : u'.csrs = u.csrs := h.read State.csrs fun _ => rfl

theorem runState (h : AlikeButOutputs u u') : u'.runState = u.runState := h.read State.runState fun _ => rfl

theorem fenceDecode (h : AlikeButOutputs u u') : u'.cfg.fenceDecode = u.cfg.fenceDecode :=
  h.read (fun s => s.cfg.fenceDecode) fun _ => rfl

theorem reg (h : AlikeButOutputs u u') (q : RegIdx) : u'.reg q = u.reg q := h.read (State.reg · q) fun _ => rfl

theorem readByte (h : AlikeButOutputs u u') (a : Nat) : u'.readByte a = u.readByte a :=
  h.read (State.readByte · a) fun _ => rfl

theorem fetchTrap (h : AlikeButOutputs u u') : u'.fetchTrap = u.fetchTrap := h.read State.fetchTrap fun _ => rfl

theorem fetchWord (h : AlikeButOutputs u u') : u'.fetchWord = u.fetchWord := h.read State.fetchWord fun _ => rfl

/-- An operation that works on the rest of the state alone keeps the relation. -/
theorem of_comm {f : State → State} (h : AlikeButOutputs u u')
    (hf : ∀ s, (f s).withoutOutputs = (f s.withoutOutputs).withoutOutputs) : AlikeButOutputs (f u) (f u') := by
  unfold AlikeButOutputs at *
  rw [hf, h, ← hf]

theorem retire (h : AlikeButOutputs u u') : AlikeButOutputs u.retire u'.retire := h.of_comm fun _ => rfl

theorem takeTrap (h : AlikeButOutputs u u') (t : Trap) : AlikeButOutputs (u.takeTrap t) (u'.takeTrap t) :=
  h.of_comm (f := (State.takeTrap · t)) fun _ => rfl

theorem emitTrace (h : AlikeButOutputs u u') (w : Word) : AlikeButOutputs (u.emitTrace w) (u'.emitTrace w) := by
  have hout (s : State) : (s.emitTrace w).withoutOutputs = s.withoutOutputs := by
    unfold State.emitTrace; split <;> rfl
  unfold AlikeButOutputs at *
  rw [hout, hout, h]

theorem respects (i : Instr) : Respects i AlikeButOutputs where
  setReg rd v _ h := h.of_comm (f := (State.setReg · rd v)) fun s => by simp only [State.setReg_eq]; rfl
  continueTo npc _ h := h.of_comm (f := (State.continueTo · npc)) fun _ => rfl
  memWrite a w v _ h := h.of_comm (f := (State.memWrite · a w v)) fun s => by simp only [State.memWrite_eq]; rfl
  warnIfOut d a w _ h := h.of_comm (f := (State.warnIfOut · d a w)) fun s => by
    simp only [State.warnIfOut_eq]; rfl
  setCsr a v _ h := h.of_comm (f := (State.setCsr · a v)) fun _ => rfl
  haltWith r _ h := h.of_comm (f := (State.haltWith · r)) fun _ => rfl

theorem readsAlike (h : AlikeButOutputs u u') (i : Instr) : ReadsAlike i u u' where
  pc := h.pc
  sources q _ := h.reg q
  memory _ := h.readByte
  csrs _ := h.csrs

theorem decodeAndExecute (h : AlikeButOutputs u u') (w : Word) :
    BothAnswer AlikeButOutputs (decodeAndExecute u w) (decodeAndExecute u' w) := by
  cases hd : decode u.cfg.fenceDecode w with
  | instr i =>
    obtain ⟨t, t', ht, ht', hR⟩ := exec_related (respects i) h (h.readsAlike i)
    rw [decodeAndExecute_of_instr hd, decodeAndExecute_of_instr (h.fenceDecode ▸ hd), ht, ht']
    exact ⟨_, _, rfl, rfl, hR.retire⟩
  | illegal v =>
    rw [decodeAndExecute_of_illegal hd, decodeAndExecute_of_illegal (h.fenceDecode ▸ hd), h.pc]
    exact ⟨_, _, rfl, rfl, h.takeTrap _⟩

/-- Both states take a step of the same kind. -/
theorem step (h : AlikeButOutputs u u') : BothAnswer AlikeButOutputs (step u) (step u') := by
  by_cases hr : u.runState = .running
  · rw [step_of_running hr, step_of_running (h.runState.trans hr)]
    cases ht : u.fetchTrap with
    | some tr =>
      rw [runningStep_of_fetchTrap ht, runningStep_of_fetchTrap (h.fetchTrap.trans ht)]
      exact ⟨_, _, rfl, rfl, h.takeTrap tr⟩
    | none =>
      rw [runningStep_of_fetch ht, runningStep_of_fetch (h.fetchTrap.trans ht), h.fetchWord]
      exact (h.emitTrace _).decodeAndExecute _
  · rw [step_of_terminal hr, step_of_terminal (h.runState ▸ hr)]
    exact ⟨_, _, rfl, rfl, h⟩

theorem run (h : AlikeButOutputs u u') (k : Nat) :
    resultWithoutOutputs (Host.Core.run Sys2Proof.core k u) =
      resultWithoutOutputs (Host.Core.run Sys2Proof.core k u') := by
  induction k generalizing u u' with
  | zero => exact congrArg Host.Outcome.next h
  | succ k ih =>
    obtain ⟨t, t', ht, ht', hR⟩ := h.step
    rw [run_succ_of_step ht, run_succ_of_step ht']
    exact ih hR

end AlikeButOutputs

/-- Settles O24: by induction on the number of steps, each of which keeps the states alike but for their outputs. -/
theorem outputsNeverAffectTheRun : Obligations.OutputsNeverAffectTheRun := by
  unfold Obligations.OutputsNeverAffectTheRun
  intro s₁ s₂ k h
  exact AlikeButOutputs.run h k

end Sys2Proof.Machine
end

section
/-! PROOFS. Memory (20_memory.md R200–R216) and the loads and stores (41_loads_stores.md R500–R522): CAP, byte order, what a
byte write and a load do, and the fetch of what a store left. -/

namespace Sys2Proof.Machine

/-! ### CAP (R216) -/

theorem sixteen_dvd_capacityOf (cfg : Config) : 16 ∣ capacityOf cfg := Nat.dvd_mul_right 16 _

theorem memReq_le_capacityOf (cfg : Config) : cfg.memReq ≤ capacityOf cfg := by
  unfold capacityOf; omega

theorem capacityOf_lt (cfg : Config) : capacityOf cfg < cfg.memReq + 16 := by
  unfold capacityOf; omega

/-- CAP is the least multiple of 16 that holds MEM_REQ. -/
theorem capacityOf_le_of_dvd {cfg : Config} {n : Nat} (hn : 16 ∣ n) (h : cfg.memReq ≤ n) : capacityOf cfg ≤ n := by
  unfold capacityOf; omega

theorem capacityOf_eq_of_dvd {cfg : Config} (h : 16 ∣ cfg.memReq) : capacityOf cfg = cfg.memReq :=
  le_antisymm (capacityOf_le_of_dvd h le_rfl) (memReq_le_capacityOf cfg)

/-- No step changes the parameters (log entry 1). -/
theorem step_keeps_cfg {s t : State} (h : step s = .next t) : t.cfg = s.cfg := by
  obtain ⟨-, rfl⟩ | ⟨-, tr, -, rfl⟩ | ⟨-, -, w, -, rfl⟩ | ⟨-, -, i, u, -, hu, rfl⟩ := step_cases h
  · rfl
  · exact State.takeTrap_cfg s tr
  · rw [State.takeTrap_cfg, State.emitTrace_cfg]
  · obtain ⟨hcfg, -, -⟩ := exec_keeps_cfg hu
    rw [State.retire_cfg, hcfg, State.emitTrace_cfg]

/-- Settles O4: CAP is the least multiple of 16 at or above MEM_REQ, and no step changes MEM_REQ. -/
theorem capacityRoundsUpAndStays : Obligations.CapacityRoundsUpAndStays := by
  unfold Obligations.CapacityRoundsUpAndStays
  refine ⟨fun cfg => ⟨sixteen_dvd_capacityOf cfg, memReq_le_capacityOf cfg, capacityOf_lt cfg, capacityOf_eq_of_dvd⟩,
    fun cfg h => ?_, fun cfg h => ?_, fun s t h => State.capacity_congr (step_keeps_cfg h)⟩
  · rw [capacityOf_eq_of_dvd (by rw [h]; decide), h]
  · rw [capacityOf, h]

/-! ### Byte order (R200) -/

/-- A byte put below the bits of `x` is the low digit of the value in base 256. -/
theorem toNat_append_byte {n : Nat} (x : BitVec n) (b : Byte) : (x ++ b).toNat = b.toNat + 256 * x.toNat := by
  rw [BitVec.toNat_append, ← Nat.shiftLeft_add_eq_or_of_lt b.isLt, Nat.shiftLeft_eq]
  omega

theorem halfOfBytes_toNat (b0 b1 : Byte) : (halfOfBytes b0 b1).toNat = b0.toNat + 256 * b1.toNat :=
  toNat_append_byte b1 b0

/-- The sign of a halfword is that of its high byte. -/
theorem halfOfBytes_toInt (b0 b1 : Byte) : (halfOfBytes b0 b1).toInt = b0.toNat + 256 * b1.toInt := by
  have happend : (halfOfBytes b0 b1).toInt = 2 ^ 8 * b1.toInt + b0.toNat := BitVec.toInt_append
  omega

theorem wordOfBytes_toNat (b0 b1 b2 b3 : Byte) :
    (wordOfBytes b0 b1 b2 b3).toNat = b0.toNat + 256 * b1.toNat + 65536 * b2.toNat + 16777216 * b3.toNat := by
  simp only [wordOfBytes, toNat_append_byte]
  omega

theorem byteOf_toNat (v : Word) (k : Nat) : (byteOf v k).toNat = v.toNat / 256 ^ k % 256 := by
  rw [byteOf, BitVec.extractLsb'_toNat, Nat.shiftRight_eq_div_pow, pow_mul]
  rfl

theorem halfOfBytes_byteOf (v : Word) : halfOfBytes (byteOf v 0) (byteOf v 1) = v.extractLsb' 0 16 :=
  BitVec.extractLsb'_append_extractLsb'_eq_extractLsb' rfl

/-! ### The effects of a load and of a store -/

theorem State.readByte_of_capacity_le {s : State} {a : Nat} (h : s.capacity ≤ a) : s.readByte a = 0#8 :=
  if_neg (Nat.not_lt.2 h)

/-- The warning of an access, by the test of R209. -/
theorem warnedFrom_of_outOfRange {s t : State} {dir : AccessDir} {a : Word} {w : Width}
    (h : t.warnings = if s.outOfRange a w then s.warnings ++ [⟨dir, a, w⟩] else s.warnings) : WarnedFrom s t dir a w := by
  unfold WarnedFrom
  rw [h]
  simp only [State.outOfRange, decide_eq_true_eq, ← Nat.not_le, ite_not]

/-- The shape of every load: the warning if due, rd, and the next pc (R501). -/
theorem loadEffect_warnIfOut (s : State) (rd : RegIdx) (a : Word) (w : Width) (v : Word) :
    LoadEffect s (((s.warnIfOut .read a w).setReg rd v).continueTo ((s.warnIfOut .read a w).pc + 4#32)) rd a w v where
  reg := by
    obtain ⟨hvalue, -, hothers⟩ := setReg_wroteReg (s.warnIfOut .read a w) rd v
    exact ⟨hvalue, State.reg_zero _, fun r hr => (hothers r hr).trans (State.warnIfOut_reg s _ _ _ r)⟩
  run := ⟨by simp, by simp, by simp, by simp⟩
  bytes b := by simp
  csrs := by simp
  warnings := warnedFrom_of_outOfRange (by simp)
  pc := by simp

/-- The shape of every store: its bytes below CAP, the warning if due, and the next pc (R206, R502). -/
theorem storeEffect_memWrite (s : State) (a : Word) (w : Width) (v : Word) :
    StoreEffect s ((s.memWrite a w v).continueTo (s.pc + 4#32)) a w v where
  stored k hk hcap := by
    have hin : a.toNat ≤ a.toNat + k ∧ a.toNat + k < a.toNat + w.bytes := by omega
    rw [State.continueTo_readByte, State.memWrite_readByte, if_pos hin, if_pos hcap, Nat.add_sub_cancel_left, byteOf_toNat]
  bytes b hb := by
    rw [State.continueTo_readByte, State.memWrite_readByte]
    split
    · next hin =>
      have hcap : s.capacity ≤ b := by omega
      rw [if_neg (Nat.not_lt.2 hcap), State.readByte_of_capacity_le hcap]
    · rfl
  regs r := by simp
  run := ⟨by simp, by simp, by simp, by simp⟩
  csrs := by simp
  warnings := warnedFrom_of_outOfRange (by simp [State.memWrite_warnings])
  pc := rfl

/-- Settles O38: every load is the one shape of R501; its value is the byte order of R200, then the extension. -/
theorem loadsReadExtendAndWarn : Obligations.LoadsReadExtendAndWarn := by
  unfold Obligations.LoadsReadExtendAndWarn
  rintro s rd rs1 imm _ rfl
  refine ⟨toNat_add_signExtend (s.reg rs1) imm, fun a => State.readByte_of_capacity_le,
    ⟨_, _, rfl, loadEffect_warnIfOut s rd _ _ _, ?_⟩, ⟨_, _, rfl, loadEffect_warnIfOut s rd _ _ _, ?_⟩,
    ⟨_, _, rfl, loadEffect_warnIfOut s rd _ _ _, ?_⟩, ⟨_, _, rfl, loadEffect_warnIfOut s rd _ _ _, ?_⟩,
    ⟨_, _, rfl, loadEffect_warnIfOut s rd _ _ _, ?_⟩⟩
  · exact BitVec.toInt_signExtend_of_le (by decide)
  · rw [BitVec.toInt_signExtend_of_le (by decide), State.memRead16, halfOfBytes_toInt]
  · exact wordOfBytes_toNat _ _ _ _
  · exact BitVec.toNat_setWidth_of_le (by decide)
  · rw [BitVec.toNat_setWidth_of_le (by decide), State.memRead16, halfOfBytes_toNat]

/-- Settles O39: every store is the one shape of R502. -/
theorem storesWriteTheirBytesOnly : Obligations.StoresWriteTheirBytesOnly := by
  unfold Obligations.StoresWriteTheirBytesOnly
  rintro s rs1 rs2 imm _ rfl
  exact ⟨toNat_add_signExtend (s.reg rs1) imm, ⟨_, rfl, storeEffect_memWrite s _ _ _⟩,
    ⟨_, rfl, storeEffect_memWrite s _ _ _⟩, ⟨_, rfl, storeEffect_memWrite s _ _ _⟩⟩

/-! ### Reading back a 4-byte write (R203, R228) -/

section
variable {s : State} {a : Word}

/-- Each byte of a 4-byte write inside memory reads back. -/
theorem State.memWrite_word_readByte (hcap : a.toNat + 3 < s.capacity) (v : Word) {k : Nat} (hk : k < 4) :
    (s.memWrite a .word v).readByte (a.toNat + k) = byteOf v k := by
  have hin : a.toNat ≤ a.toNat + k ∧ a.toNat + k < a.toNat + Width.bytes .word := by simp only [Width.bytes]; omega
  rw [State.memWrite_readByte, if_pos hin, if_pos (by omega), Nat.add_sub_cancel_left]

theorem State.memWrite_word_readByte_low (hcap : a.toNat + 3 < s.capacity) (v : Word) :
    (s.memWrite a .word v).readByte a.toNat = byteOf v 0 :=
  State.memWrite_word_readByte hcap v (k := 0) (by decide)

theorem State.memWrite_word_memRead16 (hcap : a.toNat + 3 < s.capacity) (v : Word) :
    (s.memWrite a .word v).memRead16 a = v.extractLsb' 0 16 := by
  rw [State.memRead16, State.memWrite_word_readByte_low hcap, State.memWrite_word_readByte hcap v (by decide),
    halfOfBytes_byteOf]

theorem State.memWrite_word_memRead32 (hcap : a.toNat + 3 < s.capacity) (v : Word) :
    (s.memWrite a .word v).memRead32 a = v := by
  have hbyte {k : Nat} := State.memWrite_word_readByte hcap v (k := k)
  rw [State.memRead32, State.memWrite_word_readByte_low hcap, hbyte (by decide), hbyte (by decide), hbyte (by decide),
    wordOfBytes_byteOf]

/-- Where MEM_REQ is in its range, an offset that stays inside memory does not wrap. -/
theorem toNat_add_of_lt_capacity (hreq : s.cfg.memReq ≤ 2 ^ 32) {k : Nat} (hcap : a.toNat + k < s.capacity) :
    (a + BitVec.ofNat 32 k).toNat = a.toNat + k := by
  have hmax : s.capacity ≤ 2 ^ 32 := capacityOf_le_of_dvd (by decide) hreq
  rw [BitVec.toNat_add, BitVec.toNat_ofNat]
  omega

end

/-- Settles O40: every width reads the four bytes stored, and a fetch reads like any other (R228). -/
theorem mixedWidthsSeeTheSameBytes : Obligations.MixedWidthsSeeTheSameBytes := by
  unfold Obligations.MixedWidthsSeeTheSameBytes
  rintro s _ a v hreq hcap rfl
  refine ⟨fun k hk => ?_, State.memWrite_word_memRead16 hcap v, State.memWrite_word_memRead32 hcap v,
    fun halign => ⟨?_, State.memWrite_word_memRead32 hcap v⟩⟩
  · rw [State.memRead8, toNat_add_of_lt_capacity hreq (by omega), State.memWrite_word_readByte hcap v hk, byteOf]
  · rw [State.fetchTrap_eq_none]
    exact ⟨halign, by simpa using hcap⟩

end Sys2Proof.Machine
end

section
/-! PROOFS. FENCE and FENCE.I (30_encoding.md R330; 44_system.md R830, R831). -/

namespace Sys2Proof.Machine

/-- A MISC-MEM word is decoded by its funct3 and FENCE_DECODE alone (R321, R330). -/
theorem decodeInstr_of_miscMem {w : Word} (h : opcodeOf w = 0b0001111#7) (fd : FenceDecode) :
    decodeInstr fd w = decodeMiscMem fd (funct3Of w) (rdOf w) (rs1Of w) (immIOf w) := by
  simp [decodeInstr, h]

theorem decodeMiscMem_illegal (f3 : BitVec 3) (rd rs1 : RegIdx) (imm : BitVec 12) :
    decodeMiscMem .illegal f3 rd rs1 imm = none := by
  simp [decodeMiscMem]

theorem decodeMiscMem_nop_of_other {f3 : BitVec 3} (h0 : f3 ≠ 0b000#3) (h1 : f3 ≠ 0b001#3) (rd rs1 : RegIdx)
    (imm : BitVec 12) : decodeMiscMem .nop f3 rd rs1 imm = none := by
  rw [decodeMiscMem, if_neg (fun h => h0 h.2), if_neg (fun h => h1 h.2)]

/-- Settles O46: the meanings of both fences are the next pc, and a MISC-MEM word goes by its funct3 (R330). -/
theorem fencesAreNopsOrIllegal : Obligations.FencesAreNopsOrIllegal := by
  unfold Obligations.FencesAreNopsOrIllegal
  refine ⟨fun s rd rs1 f => ⟨rfl, rfl⟩, fun w hop => ⟨?_, fun h0 => ?_, fun h1 => ?_, fun h0 h1 => ?_⟩⟩
  · rw [decode_eq_illegal, decodeInstr_of_miscMem hop, decodeMiscMem_illegal]
  · refine ⟨rdOf w, rs1Of w, immIOf w, ?_⟩
    rw [decode_eq_instr, decodeInstr_of_miscMem hop, funct3Of, h0]
    rfl
  · refine ⟨rdOf w, rs1Of w, immIOf w, ?_⟩
    rw [decode_eq_instr, decodeInstr_of_miscMem hop, funct3Of, h1]
    rfl
  · rw [decode_eq_illegal, decodeInstr_of_miscMem hop]
    exact decodeMiscMem_nop_of_other h0 h1 _ _ _

end Sys2Proof.Machine
end

section
/-! PROOFS. The decoder and the encoder undo each other (30_encoding.md R302–R308, R320–R330, R335). -/

namespace Sys2Proof

/-! ### The outer dispatch: one equation a major opcode (R320, R321) -/

section
variable {w : Word} (fd : FenceDecode)

theorem decodeInstr_of_op (h : opcodeOf w = 0b0110011#7) :
    decodeInstr fd w = decodeOp (funct7Of w) (funct3Of w) (rdOf w) (rs1Of w) (rs2Of w) := by
  simp [decodeInstr, h]

theorem decodeInstr_of_opImm (h : opcodeOf w = 0b0010011#7) :
    decodeInstr fd w = decodeOpImm (funct7Of w) (funct3Of w) (rdOf w) (rs1Of w) (immIOf w) (rs2Of w) := by
  simp [decodeInstr, h]

theorem decodeInstr_of_load (h : opcodeOf w = 0b0000011#7) :
    decodeInstr fd w = decodeLoad (funct3Of w) (rdOf w) (rs1Of w) (immIOf w) := by
  simp [decodeInstr, h]

theorem decodeInstr_of_store (h : opcodeOf w = 0b0100011#7) :
    decodeInstr fd w = decodeStore (funct3Of w) (rs1Of w) (rs2Of w) (immSOf w) := by
  simp [decodeInstr, h]

theorem decodeInstr_of_branch (h : opcodeOf w = 0b1100011#7) :
    decodeInstr fd w = decodeBranch (funct3Of w) (rs1Of w) (rs2Of w) (immBOf w) := by
  simp [decodeInstr, h]

theorem decodeInstr_of_jalr (h : opcodeOf w = 0b1100111#7) :
    decodeInstr fd w = if funct3Of w = 0b000#3 then some (.jalr (rdOf w) (rs1Of w) (immIOf w)) else none := by
  simp [decodeInstr, h]

theorem decodeInstr_of_jal (h : opcodeOf w = 0b1101111#7) : decodeInstr fd w = some (.jal (rdOf w) (immJOf w)) := by
  simp [decodeInstr, h]

theorem decodeInstr_of_lui (h : opcodeOf w = 0b0110111#7) : decodeInstr fd w = some (.lui (rdOf w) (immUOf w)) := by
  simp [decodeInstr, h]

theorem decodeInstr_of_auipc (h : opcodeOf w = 0b0010111#7) : decodeInstr fd w = some (.auipc (rdOf w) (immUOf w)) := by
  simp [decodeInstr, h]

theorem decodeInstr_of_system (h : opcodeOf w = 0b1110011#7) :
    decodeInstr fd w = decodeSystem w (funct3Of w) (rdOf w) (rs1Of w) (immIOf w) := by
  simp [decodeInstr, h]
end

/-- ECALL and EBREAK have funct3 = 0, so a word with another funct3 is decoded like any word that is neither (R329). -/
theorem decodeSystem_of_funct3_ne_zero {w : Word} (h : funct3Of w ≠ 0b000#3) (f3 : BitVec 3) (rd rs1 : RegIdx)
    (csr : CsrAddr) : decodeSystem w f3 rd rs1 csr = decodeSystem 0#32 f3 rd rs1 csr := by
  have hecall : w ≠ 0x00000073#32 := fun e => h (e ▸ rfl)
  have hebreak : w ≠ 0x00100073#32 := fun e => h (e ▸ rfl)
  simp [decodeSystem, hecall, hebreak]

/-! ### Decode of encode -/

theorem decodeInstr_encode {fd : FenceDecode} {i : Instr} (hwf : i.wf = true) (hfd : i.availableUnder fd = true) :
    decodeInstr fd (encode i) = some i := by
  cases i with
  | add | sub | sll | slt | sltu | xor | srl | sra | or | and =>
    rw [encode, decodeInstr_of_op fd (opcodeOf_encR ..)]; simp [decodeOp]
  | addi | slti | sltiu | xori | ori | andi =>
    rw [encode, decodeInstr_of_opImm fd (opcodeOf_encI ..)]; simp [decodeOpImm]
  | slli | srli | srai => rw [encode, decodeInstr_of_opImm fd (opcodeOf_encR ..)]; simp [decodeOpImm]
  | lb | lh | lw | lbu | lhu => rw [encode, decodeInstr_of_load fd (opcodeOf_encI ..)]; simp [decodeLoad]
  | sb | sh | sw => rw [encode, decodeInstr_of_store fd (opcodeOf_encS ..)]; simp [decodeStore]
  | beq _ _ offset | bne _ _ offset | blt _ _ offset | bge _ _ offset | bltu _ _ offset | bgeu _ _ offset =>
    have h0 : offset[0] = false := by simpa [Instr.wf] using hwf
    rw [encode, decodeInstr_of_branch fd (opcodeOf_encB ..)]; simp [decodeBranch, h0]
  | jalr => rw [encode, decodeInstr_of_jalr fd (opcodeOf_encI ..)]; simp
  | jal _ offset =>
    have h0 : offset[0] = false := by simpa [Instr.wf] using hwf
    rw [encode, decodeInstr_of_jal fd (opcodeOf_encJ ..)]; simp [h0]
  | lui => rw [encode, decodeInstr_of_lui fd (opcodeOf_encU ..)]; simp
  | auipc => rw [encode, decodeInstr_of_auipc fd (opcodeOf_encU ..)]; simp
  | ecall | ebreak => rfl
  | csrrw | csrrs | csrrc | csrrwi | csrrsi | csrrci =>
    rw [encode, decodeInstr_of_system fd (opcodeOf_encI ..), decodeSystem_of_funct3_ne_zero (by simp)]; simp [decodeSystem]
  | fence | fenceI =>
    have hnop : fd = .nop := by simpa [Instr.availableUnder] using hfd
    rw [encode, Machine.decodeInstr_of_miscMem (opcodeOf_encI ..)]; simp [decodeMiscMem, hnop]

/-- Settles O8: constructor by constructor, the fields of the encoding select the arm of the decoder and fill its operands. -/
theorem decodeOfEncodeIsInstruction : Obligations.DecodeOfEncodeIsInstruction := by
  unfold Obligations.DecodeOfEncodeIsInstruction
  intro fd i hwf hfd
  exact decode_eq_instr.2 (decodeInstr_encode hwf hfd)

/-! ### Encode of decode -/

theorem encode_of_decodeInstr {fd : FenceDecode} {w : Word} {i : Instr} (h : decodeInstr fd w = some i) :
    encode i = w ∧ i.wf = true ∧ i.availableUnder fd = true := by
  by_cases hop : opcodeOf w = 0b0110011#7
  · rw [decodeInstr_of_op fd hop] at h
    obtain ⟨he, hwf, hav⟩ := decodeOp_eq_some h
    exact ⟨by rw [he, ← hop, encR_fields], hwf, hav fd⟩
  by_cases hopImm : opcodeOf w = 0b0010011#7
  · rw [decodeInstr_of_opImm fd hopImm] at h
    obtain ⟨he | he, hwf, hav⟩ := decodeOpImm_eq_some h
    · exact ⟨by rw [he, ← hopImm, encR_fields], hwf, hav fd⟩
    · exact ⟨by rw [he, ← hopImm, encI_fields], hwf, hav fd⟩
  by_cases hload : opcodeOf w = 0b0000011#7
  · rw [decodeInstr_of_load fd hload] at h
    obtain ⟨he, hwf, hav⟩ := decodeLoad_eq_some h
    exact ⟨by rw [he, ← hload, encI_fields], hwf, hav fd⟩
  by_cases hstore : opcodeOf w = 0b0100011#7
  · rw [decodeInstr_of_store fd hstore] at h
    obtain ⟨he, hwf, hav⟩ := decodeStore_eq_some h
    exact ⟨by rw [he, ← hstore, encS_fields], hwf, hav fd⟩
  by_cases hbranch : opcodeOf w = 0b1100011#7
  · rw [decodeInstr_of_branch fd hbranch] at h
    obtain ⟨he, hwf, hav⟩ := decodeBranch_eq_some (immBOf_bit_zero w) h
    exact ⟨by rw [he, ← hbranch, encB_fields], hwf, hav fd⟩
  by_cases hjalr : opcodeOf w = 0b1100111#7
  · rw [decodeInstr_of_jalr fd hjalr] at h
    obtain ⟨h3, h⟩ := Option.ite_none_right_eq_some.1 h
    cases h
    exact ⟨by rw [encode, ← h3, ← hjalr, encI_fields], rfl, rfl⟩
  by_cases hjal : opcodeOf w = 0b1101111#7
  · rw [decodeInstr_of_jal fd hjal] at h
    cases h
    exact ⟨by rw [encode, ← hjal, encJ_fields], by simp [Instr.wf], rfl⟩
  by_cases hlui : opcodeOf w = 0b0110111#7
  · rw [decodeInstr_of_lui fd hlui] at h
    cases h
    exact ⟨by rw [encode, ← hlui, encU_fields], rfl, rfl⟩
  by_cases hauipc : opcodeOf w = 0b0010111#7
  · rw [decodeInstr_of_auipc fd hauipc] at h
    cases h
    exact ⟨by rw [encode, ← hauipc, encU_fields], rfl, rfl⟩
  by_cases hsystem : opcodeOf w = 0b1110011#7
  · rw [decodeInstr_of_system fd hsystem] at h
    obtain ⟨he | he, hwf, hav⟩ := decodeSystem_eq_some h
    · exact ⟨he, hwf, hav fd⟩
    · exact ⟨by rw [he, ← hsystem, encI_fields], hwf, hav fd⟩
  by_cases hmisc : opcodeOf w = 0b0001111#7
  · rw [Machine.decodeInstr_of_miscMem hmisc] at h
    obtain ⟨he, hwf, hav⟩ := decodeMiscMem_eq_some h
    exact ⟨by rw [he, ← hmisc, encI_fields], hwf, hav⟩
  · simp [decodeInstr, hop, hopImm, hload, hstore, hbranch, hjalr, hjal, hlui, hauipc, hsystem, hmisc] at h

/-- A decoded word is the encoding of its instruction, which is well-formed and exists under FENCE_DECODE. -/
theorem encode_of_decode {fd : FenceDecode} {w : Word} {i : Instr} (h : decode fd w = .instr i) :
    encode i = w ∧ i.wf = true ∧ i.availableUnder fd = true :=
  encode_of_decodeInstr (decode_eq_instr.1 h)

/-- Settles O9: each inner test answers an instruction whose encoding has the fields it was given, and a word is the encoding
of its own fields. -/
theorem encodeOfDecodeIsWord : Obligations.EncodeOfDecodeIsWord := by
  unfold Obligations.EncodeOfDecodeIsWord
  intro fd w i h
  exact encode_of_decode h

/-- Settles O11: each word is evaluated. -/
theorem sampleWordsDecode : Obligations.SampleWordsDecode := by
  unfold Obligations.SampleWordsDecode
  decide

end Sys2Proof
end

section
/-! PROOFS. The decoder follows the rows of spec/opcode_table.json (30_encoding.md R321, R330, R335): the row of an
instruction picks its word, no two rows pick one word, and a word that a row picks is decoded. -/

namespace Sys2Proof

open Laws.EncodingRow

/-! ### The row of an instruction picks its encoding -/

theorem encode_and_mask (i : Instr) : encode i &&& (row i).mask = (row i).value := by
  cases i with
  | add | sub | sll | slt | sltu | xor | srl | sra | or | and | slli | srli | srai => exact (encR_row ..).trans rfl
  | sb | sh | sw => exact (encS_row ..).trans rfl
  | beq | bne | blt | bge | bltu | bgeu => exact (encB_row ..).trans rfl
  | lui | auipc => exact (encU_row ..).trans rfl
  | jal => exact (encJ_row ..).trans rfl
  | ecall | ebreak => rfl
  | _ => exact (encI_row ..).trans rfl

theorem row_available (fd : FenceDecode) (i : Instr) : (!(row i).onlyNop || fd == .nop) = i.availableUnder fd := by
  cases i <;> rfl

theorem row_mnemonic (i : Instr) : (row i).mnemonic = i.mnemonic := by
  cases i <;> rfl

theorem row_mem_opcodeTable (i : Instr) : row i ∈ opcodeTable :=
  List.contains_iff_mem.1 (row_in_opcodeTable i)

theorem row_picks_encode {fd : FenceDecode} {i : Instr} (h : i.availableUnder fd = true) :
    (row i).picks fd (encode i) = true := by
  rw [OpcodeRow.picks, row_available, h, encode_and_mask, Bool.true_and, beq_self_eq_true]

/-! ### No two rows pick one word -/

/-- Two rows that agree on the bits both fix are the same row. -/
theorem opcodeTable_disjoint : ∀ r ∈ opcodeTable, ∀ q ∈ opcodeTable,
    r.value &&& q.mask = q.value &&& r.mask → r = q := by
  decide

theorem opcodeTable_mnemonics_nodup : (opcodeTable.map OpcodeRow.mnemonic).Nodup := by
  decide

theorem OpcodeRow.picks_iff {fd : FenceDecode} {r : OpcodeRow} {w : Word} :
    r.picks fd w = true ↔ (!r.onlyNop || fd == .nop) = true ∧ w &&& r.mask = r.value := by
  simp [OpcodeRow.picks]

theorem eq_of_picks {fd : FenceDecode} {r q : OpcodeRow} {w : Word} (hr : r ∈ opcodeTable) (hq : q ∈ opcodeTable)
    (hrw : r.picks fd w = true) (hqw : q.picks fd w = true) : r = q := by
  obtain ⟨-, hrv⟩ := OpcodeRow.picks_iff.1 hrw
  obtain ⟨-, hqv⟩ := OpcodeRow.picks_iff.1 hqw
  refine opcodeTable_disjoint r hr q hq ?_
  rw [← hrv, ← hqv, BitVec.and_assoc, BitVec.and_assoc, BitVec.and_comm r.mask]

/-! ### A word that a row picks is decoded -/

/-- A row fixes every field its mask covers. -/
theorem extractLsb'_of_and_eq {w mask value : Word} {start len : Nat} (h : w &&& mask = value)
    (hm : mask.extractLsb' start len = BitVec.allOnes len) :
    w.extractLsb' start len = value.extractLsb' start len := by
  rw [← h, BitVec.extractLsb'_and, hm, BitVec.and_allOnes]

section
variable {w : Word} (fd : FenceDecode) {r : OpcodeRow} (h : w &&& r.mask = r.value)
include h

theorem opcodeOf_of_row {op : BitVec 7} (hm : r.mask.extractLsb' 0 7 = BitVec.allOnes 7) (hv : opcodeOf r.value = op) :
    opcodeOf w = op :=
  (extractLsb'_of_and_eq h hm).trans hv

theorem funct3Of_of_row (hm : r.mask.extractLsb' 12 3 = BitVec.allOnes 3) : funct3Of w = funct3Of r.value :=
  extractLsb'_of_and_eq h hm

theorem funct7Of_of_row (hm : r.mask.extractLsb' 25 7 = BitVec.allOnes 7) : funct7Of w = funct7Of r.value :=
  extractLsb'_of_and_eq h hm

/-- A mask of all ones fixes the whole word: ECALL and EBREAK (R329). -/
theorem eq_value_of_row (hm : r.mask = BitVec.allOnes 32) : w = r.value := by
  rw [← h, hm, BitVec.and_allOnes]

theorem decodeInstr_isSome_of_opRows (hr : r ∈ opRows) : (decodeInstr fd w).isSome = true := by
  fin_cases hr
  all_goals
    rw [decodeInstr_of_op fd (opcodeOf_of_row h rfl rfl), funct3Of_of_row h rfl, funct7Of_of_row h rfl]
    rfl

theorem decodeInstr_isSome_of_opImmRows (hr : r ∈ opImmRows) : (decodeInstr fd w).isSome = true := by
  have hop : opcodeOf w = 0b0010011#7 := by fin_cases hr <;> exact opcodeOf_of_row h rfl rfl
  rw [decodeInstr_of_opImm fd hop]
  fin_cases hr
  iterate 6 rw [funct3Of_of_row h rfl]; rfl
  all_goals rw [funct3Of_of_row h rfl, funct7Of_of_row h rfl]; rfl

theorem decodeInstr_isSome_of_loadStoreRows (hr : r ∈ loadStoreRows) : (decodeInstr fd w).isSome = true := by
  fin_cases hr
  iterate 5 rw [decodeInstr_of_load fd (opcodeOf_of_row h rfl rfl), funct3Of_of_row h rfl]; rfl
  all_goals rw [decodeInstr_of_store fd (opcodeOf_of_row h rfl rfl), funct3Of_of_row h rfl]; rfl

theorem decodeInstr_isSome_of_branchRows (hr : r ∈ branchRows) : (decodeInstr fd w).isSome = true := by
  fin_cases hr
  all_goals rw [decodeInstr_of_branch fd (opcodeOf_of_row h rfl rfl), funct3Of_of_row h rfl]; rfl

theorem decodeInstr_isSome_of_jumpUpperRows (hr : r ∈ jumpUpperRows) : (decodeInstr fd w).isSome = true := by
  fin_cases hr
  · rw [decodeInstr_of_jal fd (opcodeOf_of_row h rfl rfl)]; rfl
  · rw [decodeInstr_of_jalr fd (opcodeOf_of_row h rfl rfl), funct3Of_of_row h rfl]; rfl
  · rw [decodeInstr_of_lui fd (opcodeOf_of_row h rfl rfl)]; rfl
  · rw [decodeInstr_of_auipc fd (opcodeOf_of_row h rfl rfl)]; rfl

theorem decodeInstr_isSome_of_systemRows (hr : r ∈ systemRows) : (decodeInstr fd w).isSome = true := by
  fin_cases hr
  iterate 2 obtain rfl := eq_value_of_row h rfl; rfl
  all_goals
    have h3 := funct3Of_of_row h rfl
    have hne : funct3Of w ≠ 0b000#3 := by rw [h3]; decide
    rw [decodeInstr_of_system fd (opcodeOf_of_row h rfl rfl), decodeSystem_of_funct3_ne_zero hne, h3]
    rfl

theorem decodeInstr_isSome_of_fenceRows (hr : r ∈ fenceRows) (hfd : (!r.onlyNop || fd == .nop) = true) :
    (decodeInstr fd w).isSome = true := by
  fin_cases hr
  all_goals
    obtain rfl : fd = .nop := by simpa using hfd
    rw [Machine.decodeInstr_of_miscMem (opcodeOf_of_row h rfl rfl), funct3Of_of_row h rfl]
    rfl
end

theorem decodeInstr_isSome_of_picks {fd : FenceDecode} {r : OpcodeRow} {w : Word} (hr : r ∈ opcodeTable)
    (hp : r.picks fd w = true) : (decodeInstr fd w).isSome = true := by
  obtain ⟨hfd, h⟩ := OpcodeRow.picks_iff.1 hp
  simp only [opcodeTable, List.mem_append] at hr
  obtain (((((hr | hr) | hr) | hr) | hr) | hr) | hr := hr
  · exact decodeInstr_isSome_of_opRows fd h hr
  · exact decodeInstr_isSome_of_opImmRows fd h hr
  · exact decodeInstr_isSome_of_loadStoreRows fd h hr
  · exact decodeInstr_isSome_of_branchRows fd h hr
  · exact decodeInstr_isSome_of_jumpUpperRows fd h hr
  · exact decodeInstr_isSome_of_systemRows fd h hr
  · exact decodeInstr_isSome_of_fenceRows fd h hr hfd

/-! ### The row of a decoded word -/

theorem row_picks_of_decode {fd : FenceDecode} {w : Word} {i : Instr} (h : decode fd w = .instr i) :
    (row i).picks fd w = true := by
  obtain ⟨rfl, -, hav⟩ := encode_of_decode h
  exact row_picks_encode hav

theorem decode_eq_illegal_iff_no_row_picks {fd : FenceDecode} {w : Word} :
    decode fd w = .illegal w ↔ ∀ r ∈ opcodeTable, r.picks fd w = false := by
  constructor
  · intro h r hr
    rw [← Bool.not_eq_true]
    intro hp
    have hsome := decodeInstr_isSome_of_picks hr hp
    simp [decode_eq_illegal.1 h] at hsome
  · intro h
    cases hd : decode fd w with
    | instr i => exact absurd (row_picks_of_decode hd) (by simp [h _ (row_mem_opcodeTable i)])
    | illegal v => rw [Machine.decode_illegal_word hd]

theorem picks_iff_mnemonic_of_decode {fd : FenceDecode} {w : Word} {i : Instr} (h : decode fd w = .instr i)
    {r : OpcodeRow} (hr : r ∈ opcodeTable) : r.picks fd w = true ↔ r.mnemonic = i.mnemonic := by
  rw [← row_mnemonic]
  constructor
  · intro hp
    rw [eq_of_picks hr (row_mem_opcodeTable i) hp (row_picks_of_decode h)]
  · intro hm
    rw [List.inj_on_of_nodup_map opcodeTable_mnemonics_nodup hr (row_mem_opcodeTable i) hm]
    exact row_picks_of_decode h

/-- Settles O10: the row of the instruction picks the word, no second row does, and a word that a row picks is decoded. -/
theorem decodePicksTheOnlyMatchingRow : Obligations.DecodePicksTheOnlyMatchingRow := by
  unfold Obligations.DecodePicksTheOnlyMatchingRow
  exact fun fd w => ⟨decode_eq_illegal_iff_no_row_picks, fun i h r hr => picks_iff_mnemonic_of_decode h hr⟩

end Sys2Proof
end

section
/-! PROOFS. The operands of a decoded instruction are fields of its word (30_encoding.md R301, R310–R318): a decoded word is
the encoding of its instruction, and a field of an encoding is what was put there. -/

namespace Sys2Proof

/-! ### The instructions of each format with their operands (R302–R308) -/

section
variable (rd rs1 rs2 z : RegIdx) (f : BitVec 12) (fB : BitVec 13) (fU : BitVec 20)

abbrev Instr.opForms : List Instr :=
  [.add rd rs1 rs2, .sub rd rs1 rs2, .sll rd rs1 rs2, .slt rd rs1 rs2, .sltu rd rs1 rs2, .xor rd rs1 rs2,
    .srl rd rs1 rs2, .sra rd rs1 rs2, .or rd rs1 rs2, .and rd rs1 rs2]

abbrev Instr.shiftForms : List Instr := [.slli rd rs1 z, .srli rd rs1 z, .srai rd rs1 z]

abbrev Instr.immIForms : List Instr :=
  [.addi rd rs1 f, .slti rd rs1 f, .sltiu rd rs1 f, .xori rd rs1 f, .ori rd rs1 f, .andi rd rs1 f, .lb rd rs1 f,
    .lh rd rs1 f, .lw rd rs1 f, .lbu rd rs1 f, .lhu rd rs1 f, .jalr rd rs1 f]

abbrev Instr.storeForms : List Instr := [.sb rs1 rs2 f, .sh rs1 rs2 f, .sw rs1 rs2 f]

abbrev Instr.branchForms : List Instr :=
  [.beq rs1 rs2 fB, .bne rs1 rs2 fB, .blt rs1 rs2 fB, .bge rs1 rs2 fB, .bltu rs1 rs2 fB, .bgeu rs1 rs2 fB]

abbrev Instr.upperForms : List Instr := [.lui rd fU, .auipc rd fU]

abbrev Instr.csrForms : List Instr := [.csrrw rd rs1 f, .csrrs rd rs1 f, .csrrc rd rs1 f]

abbrev Instr.csrImmForms : List Instr := [.csrrwi rd z f, .csrrsi rd z f, .csrrci rd z f]

abbrev Instr.fenceForms : List Instr := [.fence rd rs1 f, .fenceI rd rs1 f]
end

section
variable {i : Instr} {rd rs1 rs2 z : RegIdx} {f : BitVec 12} {fB : BitVec 13} {fU : BitVec 20} {fJ : BitVec 21}

theorem encode_of_mem_opForms (h : i ∈ Instr.opForms rd rs1 rs2) :
    ∃ f7 f3 op, encode i = encR f7 rs2 rs1 f3 rd op := by
  fin_cases h <;> exact ⟨_, _, _, rfl⟩

theorem encode_of_mem_shiftForms (h : i ∈ Instr.shiftForms rd rs1 z) : ∃ f7 f3 op, encode i = encR f7 z rs1 f3 rd op := by
  fin_cases h <;> exact ⟨_, _, _, rfl⟩

theorem encode_of_mem_immIForms (h : i ∈ Instr.immIForms rd rs1 f) : ∃ f3 op, encode i = encI f rs1 f3 rd op := by
  fin_cases h <;> exact ⟨_, _, rfl⟩

theorem encode_of_mem_storeForms (h : i ∈ Instr.storeForms rs1 rs2 f) : ∃ f3 op, encode i = encS f rs2 rs1 f3 op := by
  fin_cases h <;> exact ⟨_, _, rfl⟩

theorem encode_of_mem_branchForms (h : i ∈ Instr.branchForms rs1 rs2 fB) :
    (∃ f3 op, encode i = encB fB rs2 rs1 f3 op) ∧ i.wf = !fB[0] := by
  fin_cases h <;> exact ⟨⟨_, _, rfl⟩, rfl⟩

theorem encode_of_mem_upperForms (h : i ∈ Instr.upperForms rd fU) : ∃ op, encode i = encU fU rd op := by
  fin_cases h <;> exact ⟨_, rfl⟩

theorem encode_of_mem_csrForms (h : i ∈ Instr.csrForms rd rs1 f) : ∃ f3 op, encode i = encI f rs1 f3 rd op := by
  fin_cases h <;> exact ⟨_, _, rfl⟩

theorem encode_of_mem_csrImmForms (h : i ∈ Instr.csrImmForms rd z f) : ∃ f3 op, encode i = encI f z f3 rd op := by
  fin_cases h <;> exact ⟨_, _, rfl⟩

theorem encode_of_mem_fenceForms (h : i ∈ Instr.fenceForms rd rs1 f) : ∃ f3 op, encode i = encI f rs1 f3 rd op := by
  fin_cases h <;> exact ⟨_, _, rfl⟩

/-! ### The fields of a decoded word -/

variable {fd : FenceDecode} {w : Word} (hd : decode fd w = .instr i)
include hd

theorem fields_of_opForms (h : i ∈ Instr.opForms rd rs1 rs2) : rd = rdOf w ∧ rs1 = rs1Of w ∧ rs2 = rs2Of w := by
  obtain ⟨rfl, -, -⟩ := encode_of_decode hd
  obtain ⟨f7, f3, op, he⟩ := encode_of_mem_opForms h
  simp [he]

theorem fields_of_shiftForms (h : i ∈ Instr.shiftForms rd rs1 z) : rd = rdOf w ∧ rs1 = rs1Of w ∧ z = rs2Of w := by
  obtain ⟨rfl, -, -⟩ := encode_of_decode hd
  obtain ⟨f7, f3, op, he⟩ := encode_of_mem_shiftForms h
  simp [he]

/-- The fields of a word in I-format or SYSTEM format (R303, R308). -/
theorem fields_of_encI (h : ∃ f3 op, encode i = encI f rs1 f3 rd op) : rd = rdOf w ∧ rs1 = rs1Of w ∧ f = immIOf w := by
  obtain ⟨rfl, -, -⟩ := encode_of_decode hd
  obtain ⟨f3, op, he⟩ := h
  simp [he]

theorem fields_of_storeForms (h : i ∈ Instr.storeForms rs1 rs2 f) : rs1 = rs1Of w ∧ rs2 = rs2Of w ∧ f = immSOf w := by
  obtain ⟨rfl, -, -⟩ := encode_of_decode hd
  obtain ⟨f3, op, he⟩ := encode_of_mem_storeForms h
  simp [he]

theorem fields_of_branchForms (h : i ∈ Instr.branchForms rs1 rs2 fB) :
    rs1 = rs1Of w ∧ rs2 = rs2Of w ∧ fB = immBOf w := by
  obtain ⟨rfl, hwf, -⟩ := encode_of_decode hd
  obtain ⟨⟨f3, op, he⟩, hbit⟩ := encode_of_mem_branchForms h
  have h0 : fB[0] = false := by simpa [hwf] using hbit
  simp [he, h0]

theorem fields_of_upperForms (h : i ∈ Instr.upperForms rd fU) : rd = rdOf w ∧ fU = immUOf w := by
  obtain ⟨rfl, -, -⟩ := encode_of_decode hd
  obtain ⟨op, he⟩ := encode_of_mem_upperForms h
  simp [he]

theorem fields_of_jal (h : i = .jal rd fJ) : rd = rdOf w ∧ fJ = immJOf w := by
  subst h
  obtain ⟨rfl, hwf, -⟩ := encode_of_decode hd
  have h0 : fJ[0] = false := by simpa [Instr.wf] using hwf
  simp [encode, h0]
end

/-- The amount of a register shift, by value (R315, R402). -/
theorem Machine.shiftAmount_eq_mod (v : Word) : Machine.shiftAmount v = v.toNat % 32 := by
  rw [Machine.shiftAmount, BitVec.extractLsb'_toNat, Nat.shiftRight_zero]

/-- Settles O47: a field of the decoded word is the operand the encoding holds there; zimm and the shift amount by value. -/
theorem operandFieldsComeFromTheirBits : Obligations.OperandFieldsComeFromTheirBits := by
  unfold Obligations.OperandFieldsComeFromTheirBits
  refine ⟨fun fd w i rd rs1 rs2 sh z f fB fU fJ hd => ⟨fields_of_opForms hd, fun h => ?_, fields_of_shiftForms hd,
    fun h => ?_, fun h => ?_, fun h => fields_of_encI hd (encode_of_mem_csrForms h),
    fun h => fields_of_encI hd (encode_of_mem_csrImmForms h), fun h => fields_of_encI hd (encode_of_mem_fenceForms h)⟩,
    fun z => BitVec.toNat_setWidth_of_le (by decide), Machine.shiftAmount_eq_mod⟩
  · obtain ⟨hrd, hrs1, -⟩ := fields_of_encI hd (encode_of_mem_immIForms h)
    exact ⟨hrd, hrs1⟩
  · obtain h | h := List.mem_append.1 (show i ∈ Instr.storeForms rs1 rs2 f ++ Instr.branchForms rs1 rs2 fB from h)
    · obtain ⟨hrs1, hrs2, -⟩ := fields_of_storeForms hd h
      exact ⟨hrs1, hrs2⟩
    · obtain ⟨hrs1, hrs2, -⟩ := fields_of_branchForms hd h
      exact ⟨hrs1, hrs2⟩
  · obtain h | h := List.mem_append.1 (show i ∈ Instr.upperForms rd fU ++ [.jal rd fJ] from h)
    · exact (fields_of_upperForms hd h).1
    · exact (fields_of_jal hd (List.mem_singleton.1 h)).1

end Sys2Proof
end

section
/-! PROOFS. The values of the immediates (30_encoding.md R310–R314). -/

namespace Sys2Proof

open Machine

/-! ### Signed values of fields -/

theorem toInt_append_of_ne_zero {n m : Nat} (h : n ≠ 0) (x : BitVec n) (y : BitVec m) :
    (x ++ y).toInt = 2 ^ m * x.toInt + y.toNat := by
  rw [BitVec.toInt_append, if_neg (by simpa using h)]

/-- One bit as a signed number is 0 or -1. -/
theorem toInt_bit (b : BitVec 1) : b.toInt = -b.toNat := by
  revert b; decide

/-- The top bit of a field counts negative. -/
theorem toInt_extractLsb'_succ (w : Word) (start n : Nat) :
    (w.extractLsb' start (1 + n)).toInt =
      (w.extractLsb' start n).toNat - 2 ^ n * (w.extractLsb' (start + n) 1).toNat := by
  rw [← BitVec.extractLsb'_append_extractLsb'_eq_extractLsb' rfl, toInt_append_of_ne_zero one_ne_zero, toInt_bit]
  ring

theorem immIOf_toInt (w : Word) :
    (immIOf w).toInt = (w.extractLsb' 20 11).toNat - 2048 * (w.extractLsb' 31 1).toNat :=
  toInt_extractLsb'_succ w 20 11

theorem immSOf_toInt (w : Word) :
    (immSOf w).toInt =
      (w.extractLsb' 7 5).toNat + 32 * (w.extractLsb' 25 6).toNat - 2048 * (w.extractLsb' 31 1).toNat := by
  have hhigh : (w.extractLsb' 25 7).toInt = (w.extractLsb' 25 6).toNat - 64 * (w.extractLsb' 31 1).toNat :=
    toInt_extractLsb'_succ w 25 6
  rw [immSOf, toInt_append_of_ne_zero (by decide), hhigh]
  omega

theorem immBOf_toInt (w : Word) :
    (immBOf w).toInt =
      2 * (w.extractLsb' 8 4).toNat + 32 * (w.extractLsb' 25 6).toNat + 2048 * (w.extractLsb' 7 1).toNat
        - 4096 * (w.extractLsb' 31 1).toNat := by
  rw [immBOf]
  iterate 4 rw [toInt_append_of_ne_zero (by decide)]
  rw [toInt_bit, BitVec.toNat_ofNat]
  omega

theorem immJOf_toInt (w : Word) :
    (immJOf w).toInt =
      2 * (w.extractLsb' 21 10).toNat + 2048 * (w.extractLsb' 20 1).toNat + 4096 * (w.extractLsb' 12 8).toNat
        - 1048576 * (w.extractLsb' 31 1).toNat := by
  rw [immJOf]
  iterate 4 rw [toInt_append_of_ne_zero (by decide)]
  rw [toInt_bit, BitVec.toNat_ofNat]
  omega

/-! ### The immediates, extended -/

theorem immI_toInt (f : BitVec 12) : (immI f).toInt = f.toInt := BitVec.toInt_signExtend_of_le (by decide)

theorem immS_toInt (f : BitVec 12) : (immS f).toInt = f.toInt := BitVec.toInt_signExtend_of_le (by decide)

theorem immB_toInt (f : BitVec 13) : (immB f).toInt = f.toInt := BitVec.toInt_signExtend_of_le (by decide)

theorem immJ_toInt (f : BitVec 21) : (immJ f).toInt = f.toInt := BitVec.toInt_signExtend_of_le (by decide)

theorem immU_toNat (f : BitVec 20) : (immU f).toNat = 4096 * f.toNat := by
  rw [immU, BitVec.toNat_append]
  simp [Nat.shiftLeft_eq, mul_comm]

/-- Bit 0 of imm_b is 0, so it is even and lies in [-4096, 4094] (R312). -/
theorem immB_even_and_range (w : Word) :
    (immB (immBOf w)).toInt % 2 = 0 ∧ -4096 ≤ (immB (immBOf w)).toInt ∧ (immB (immBOf w)).toInt ≤ 4094 := by
  rw [immB_toInt, immBOf_toInt]
  omega

/-- Bit 0 of imm_j is 0, so it is even and lies in [-1048576, 1048574] (R314). -/
theorem immJ_even_and_range (w : Word) :
    (immJ (immJOf w)).toInt % 2 = 0 ∧ -1048576 ≤ (immJ (immJOf w)).toInt ∧ (immJ (immJOf w)).toInt ≤ 1048574 := by
  rw [immJ_toInt, immJOf_toInt]
  omega

/-- Settles O12: each immediate is a concatenation of fields read as a signed number, and the immediate of a decoded
instruction is the field of its format. -/
theorem immediatesComeFromTheirBits : Obligations.ImmediatesComeFromTheirBits := by
  unfold Obligations.ImmediatesComeFromTheirBits
  intro w
  obtain ⟨hevenB, hloB, hhiB⟩ := immB_even_and_range w
  obtain ⟨hevenJ, hloJ, hhiJ⟩ := immJ_even_and_range w
  refine ⟨(immI_toInt _).trans (immIOf_toInt w), (immS_toInt _).trans (immSOf_toInt w),
    (immB_toInt _).trans (immBOf_toInt w), hevenB, hloB, hhiB, immU_toNat _,
    (immJ_toInt _).trans (immJOf_toInt w), hevenJ, hloJ, hhiJ,
    fun fd i rd rs1 rs2 fI fS fB fU fJ hd => ⟨fun h => ?_, fun h => ?_, fun h => ?_, fun h => ?_, fun h => ?_⟩⟩
  · obtain ⟨-, -, himm⟩ := fields_of_encI hd (encode_of_mem_immIForms h)
    exact himm
  · obtain ⟨-, -, himm⟩ := fields_of_storeForms hd h
    exact himm
  · obtain ⟨-, -, himm⟩ := fields_of_branchForms hd h
    exact himm
  · obtain ⟨-, himm⟩ := fields_of_upperForms hd h
    exact himm
  · obtain ⟨-, himm⟩ := fields_of_jal hd h
    exact himm

end Sys2Proof
end

section
/-! PROOFS. Every step keeps pc even (42_control_transfer.md R601, R621): each target is a sum of even words, or has its
bit 0 cleared. -/

namespace Sys2Proof.Machine

/-- The word is a multiple of 2. -/
abbrev EvenWord (a : Word) : Prop := a.toNat % 2 = 0

theorem EvenWord.add {a b : Word} (ha : EvenWord a) (hb : EvenWord b) : EvenWord (a + b) := by
  unfold EvenWord at *
  rw [BitVec.toNat_add]
  omega

theorem evenWord_iff_getLsbD {a : Word} : EvenWord a ↔ a.getLsbD 0 = false := by
  rw [BitVec.getLsbD, Nat.testBit_zero, decide_eq_false_iff_not]
  omega

/-- A sign-extended offset whose bit 0 is 0 is even (R312, R314). -/
theorem evenWord_signExtend {n : Nat} {offset : BitVec n} (h : offset.getLsbD 0 = false) (hn : 0 < n) :
    EvenWord (offset.signExtend 32) := by
  rw [evenWord_iff_getLsbD, BitVec.getLsbD_signExtend, if_pos hn, h, Bool.and_false]

theorem evenWord_clearBitZero (a : Word) : EvenWord (a &&& 0xFFFFFFFE#32) := by
  rw [evenWord_iff_getLsbD, BitVec.getLsbD_and]
  exact Bool.and_false _

theorem branchIf_keeps_pc_even {s t : State} {c : Bool} {offset : BitVec 13} (h : branchIf s c offset = .next t)
    (hs : EvenWord s.pc) (h0 : offset[0] = false) : EvenWord t.pc := by
  rw [branchIf_eq_next h, State.continueTo_pc]
  split
  · exact hs.add (evenWord_signExtend h0 (by decide))
  · exact hs.add rfl

theorem exec_keeps_pc_even {i : Instr} {s t : State} (h : exec i s = .next t) (hwf : i.wf = true)
    (hs : EvenWord s.pc) : EvenWord t.pc := by
  cases hc : i.isControlTransfer with
  | false =>
    cases hh : i.isHalt with
    | false => rw [exec_pc h hc hh]; exact hs.add rfl
    | true => rw [exec_pc_of_halt h hh]; exact hs
  | true =>
    cases i with
    | beq | bne | blt | bge | bltu | bgeu => exact branchIf_keeps_pc_even h hs (by simpa [Instr.wf] using hwf)
    | jal _ offset =>
      have h0 : offset[0] = false := by simpa [Instr.wf] using hwf
      rw [linkAndJump_eq_next h, State.continueTo_pc]
      exact hs.add (evenWord_signExtend h0 (by decide))
    | jalr => rw [linkAndJump_eq_next h, State.continueTo_pc]; exact evenWord_clearBitZero _
    | _ => cases hc

/-- Settles O6: a trap and a terminal state leave pc alone, and a decoded instruction, whose offset is well-formed, keeps it
even. -/
theorem stepKeepsPcEven : Obligations.StepKeepsPcEven := by
  unfold Obligations.StepKeepsPcEven
  intro s t hs h
  obtain ⟨-, rfl⟩ | ⟨-, tr, -, rfl⟩ | ⟨-, -, w, -, rfl⟩ | ⟨-, -, i, u, hd, hu, rfl⟩ := step_cases h
  · exact hs
  · exact hs
  · rw [State.takeTrap_pc, State.emitTrace_pc]; exact hs
  · obtain ⟨-, hwf, -⟩ := encode_of_decode hd
    have hs' : EvenWord (s.emitTrace s.fetchWord).pc := by rw [State.emitTrace_pc]; exact hs
    rw [State.retire_pc]
    exact exec_keeps_pc_even hu hwf hs'

end Sys2Proof.Machine
end

section
/-! PROOFS. The bitwise instructions and the shifts (40_integer_alu.md R415–R419, R433–R438): all complete by `writeRegNext`,
so what is left is the value each writes. -/

namespace Sys2Proof.Machine

/-! ### A register write and the next pc (R400) -/

theorem onlyWroteReg_setReg_continueTo (s : State) (rd : RegIdx) (v npc : Word) :
    OnlyWroteReg s ((s.setReg rd v).continueTo npc) rd v where
  reg := (setReg_wroteReg s rd v).of_regs rfl
  run := ⟨by simp, by simp, by simp, by simp⟩
  bytes a := by simp
  csrs := by simp
  warnings := by simp

/-- An instruction that writes rd and goes on completes, and the written value has whatever property is asked of it. -/
theorem writeRegNext_effect (s : State) (rd : RegIdx) (v : Word) {P : Word → Prop} (hP : P v) :
    ∃ t v', writeRegNext s rd v = .next t ∧ OnlyWroteReg s t rd v' ∧ t.pc = s.pc + 4#32 ∧ P v' :=
  ⟨_, v, rfl, onlyWroteReg_setReg_continueTo s rd v _, rfl, hP⟩

/-! ### Bit by bit -/

/-- The bits of imm_i above 11 are copies of its bit 11 (R310). -/
theorem immI_getLsbD (f : BitVec 12) {k : Nat} (hk : k < 32) : (immI f).getLsbD k = f.getLsbD (min k 11) := by
  rw [immI, BitVec.getLsbD_signExtend, decide_eq_true hk, Bool.true_and]
  split
  · next h => rw [min_eq_left (by omega)]
  · next h => rw [min_eq_right (by omega), BitVec.msb_eq_getLsbD_last]

/-- Settles O33: each instruction writes the bitwise combination of its operands. -/
theorem bitwiseInstructionsActBitByBit : Obligations.BitwiseInstructionsActBitByBit := by
  unfold Obligations.BitwiseInstructionsActBitByBit
  intro s rd rs1 rs2 imm
  refine ⟨writeRegNext_effect s rd _ fun k _ => ?_, writeRegNext_effect s rd _ fun k _ => ?_,
    writeRegNext_effect s rd _ fun k _ => ?_, writeRegNext_effect s rd _ fun k hk => ?_,
    writeRegNext_effect s rd _ fun k hk => ?_, writeRegNext_effect s rd _ fun k hk => ?_⟩
  · exact BitVec.getLsbD_and
  · exact BitVec.getLsbD_or
  · exact BitVec.getLsbD_xor
  · rw [BitVec.getLsbD_and, immI_getLsbD imm hk]
  · rw [BitVec.getLsbD_or, immI_getLsbD imm hk]
  · rw [BitVec.getLsbD_xor, immI_getLsbD imm hk]

/-! ### Shifts by value -/

theorem toNat_shiftLeft_eq_mul (x : Word) (n : Nat) : (x <<< n).toNat = x.toNat * 2 ^ n % 2 ^ 32 := by
  rw [BitVec.toNat_shiftLeft, Nat.shiftLeft_eq]

theorem toNat_ushiftRight_eq_div (x : Word) (n : Nat) : (x >>> n).toNat = x.toNat / 2 ^ n := by
  rw [BitVec.toNat_ushiftRight, Nat.shiftRight_eq_div_pow]

theorem toInt_sshiftRight_eq_div (x : Word) (n : Nat) : (x.sshiftRight n).toInt = x.toInt / 2 ^ n := by
  rw [BitVec.toInt_sshiftRight, Int.shiftRight_eq_div_pow]
  norm_cast

/-- Settles O34: each shift writes the shifted word, and a register shift takes its amount modulo 32. -/
theorem shiftsMultiplyAndDivide : Obligations.ShiftsMultiplyAndDivide := by
  unfold Obligations.ShiftsMultiplyAndDivide
  intro s rd rs1 rs2 shamt
  rw [← shiftAmount_eq_mod (s.reg rs2)]
  exact ⟨writeRegNext_effect s rd _ (toNat_shiftLeft_eq_mul _ _), writeRegNext_effect s rd _ (toNat_ushiftRight_eq_div _ _),
    writeRegNext_effect s rd _ (toInt_sshiftRight_eq_div _ _), writeRegNext_effect s rd _ (toNat_shiftLeft_eq_mul _ _),
    writeRegNext_effect s rd _ (toNat_ushiftRight_eq_div _ _), writeRegNext_effect s rd _ (toInt_sshiftRight_eq_div _ _)⟩

end Sys2Proof.Machine
end

section
/-! PROOFS. The expansions of li, la and call (30_encoding.md R347): an upper part and a lower part add up to the value. -/

namespace Sys2Proof.Machine

/-! ### The two parts of a value -/

/-- A value in [-2048, 2047] is the sign extension of its low 12 bits (R310). -/
theorem immI_setWidth_of_small {v : Word} (hlo : -2048 ≤ v.toInt) (hhi : v.toInt ≤ 2047) : immI (v.setWidth 12) = v := by
  apply BitVec.eq_of_toInt_eq
  rw [immI_toInt, BitVec.toInt_eq_toNat_cond, BitVec.toNat_setWidth]
  rw [BitVec.toInt_eq_toNat_cond] at *
  omega

/-- Rounding to a multiple of 4096 leaves a rest in [-2048, 2047]. -/
theorem sub_immU_hiPart_small (v : Word) : -2048 ≤ (v - immU (hiPart v)).toInt ∧ (v - immU (hiPart v)).toInt ≤ 2047 := by
  have hupper : (immU (hiPart v)).toNat = 4096 * ((v.toNat + 2048) % 2 ^ 32 / 4096) := by
    rw [immU_toNat, hiPart, BitVec.toNat_setWidth, BitVec.toNat_ushiftRight, Nat.shiftRight_eq_div_pow, BitVec.toNat_add,
      BitVec.toNat_ofNat]
    omega
  rw [BitVec.toInt_eq_toNat_cond, BitVec.toNat_sub, hupper]
  omega

theorem immU_hiPart_add_immI_loPart (v : Word) : immU (hiPart v) + immI (loPart v) = v := by
  obtain ⟨hlo, hhi⟩ := sub_immU_hiPart_small v
  rw [loPart, immI_setWidth_of_small hlo hhi, BitVec.add_comm, BitVec.sub_add_cancel]

/-! ### Running an expansion -/

theorem wroteReg_setReg_continueTo (s : State) (rd : RegIdx) (npc : Word) {v v' : Word} (hv : v = v') :
    WroteReg s ((s.setReg rd v).continueTo npc) rd v' :=
  hv ▸ (onlyWroteReg_setReg_continueTo s rd v npc).reg

theorem WroteReg.trans {s t u : State} {rd : RegIdx} {v v' : Word} (h : WroteReg s t rd v) (h' : WroteReg t u rd v') :
    WroteReg s u rd v' where
  value := h'.value
  zero := h'.zero
  others r hr := (h'.others r hr).trans (h.others r hr)

section
variable {s : State} {rd : RegIdx} {a : Word} {upper : Instr} (hexec : exec upper s = writeRegNext s rd a) (hrd : rd ≠ 0#5)
  (lo : BitVec 12)
include hexec hrd

/-- An upper part written to rd, then ADDI to rd: rd holds the sum. -/
theorem execAll_upper_addi : ∃ t, execAll [upper, .addi rd rd lo] s = .next t ∧ WroteReg s t rd (a + immI lo) ∧
    t.pc = s.pc + 8#32 := by
  have hupper := wroteReg_setReg_continueTo s rd (s.pc + 4#32) (rfl : a = a)
  refine ⟨_, by rw [execAll, hexec]; rfl, hupper.trans (wroteReg_setReg_continueTo _ rd _ ?_), ?_⟩
  · rw [hupper.value hrd]
  · rw [State.continueTo_pc, State.continueTo_pc, BitVec.add_assoc]
    rfl

/-- An upper part written to rd, then JALR through rd: the target is the sum with bit 0 cleared, and rd holds the link. -/
theorem execAll_upper_jalr : ∃ t, execAll [upper, .jalr rd rd lo] s = .next t ∧ WroteReg s t rd (s.pc + 8#32) ∧
    t.pc = (a + immI lo) &&& 0xFFFFFFFE#32 := by
  have hupper := wroteReg_setReg_continueTo s rd (s.pc + 4#32) (rfl : a = a)
  refine ⟨_, by rw [execAll, hexec]; rfl, hupper.trans (wroteReg_setReg_continueTo _ rd _ ?_), ?_⟩
  · rw [State.continueTo_pc, BitVec.add_assoc]
    rfl
  · rw [State.continueTo_pc, jalrTarget, hupper.value hrd]
end

theorem pc_add_immU_hiPart_add_immI_loPart (pc v : Word) : pc + immU (hiPart v) + immI (loPart v) = pc + v := by
  rw [BitVec.add_assoc, immU_hiPart_add_immI_loPart]

/-- Each of the three expansions of li leaves its value in rd. -/
theorem execAll_expandLi (s : State) {rd : RegIdx} (hrd : rd ≠ 0#5) (v : Word) :
    ∃ t, execAll (expandLi rd v) s = .next t ∧ WroteReg s t rd v := by
  unfold expandLi
  split
  · next hsmall =>
    have hv : s.reg 0#5 + immI (v.setWidth 12) = v := by
      rw [State.reg_zero, BitVec.zero_add, immI_setWidth_of_small hsmall.1 hsmall.2]
    exact ⟨_, rfl, wroteReg_setReg_continueTo s rd _ hv⟩
  · split
    · next hlo =>
      have hv : immU (hiPart v) = v := by
        have hsum := immU_hiPart_add_immI_loPart v
        rwa [hlo, show immI 0#12 = 0#32 from rfl, BitVec.add_zero] at hsum
      exact ⟨_, rfl, wroteReg_setReg_continueTo s rd _ hv⟩
    · obtain ⟨t, ht, hreg, -⟩ := execAll_upper_addi (s := s) (upper := .lui rd (hiPart v)) rfl hrd (loPart v)
      rw [immU_hiPart_add_immI_loPart] at hreg
      exact ⟨t, ht, hreg⟩

/-- Settles O37: the second instruction adds the lower part to the upper part that the first left in the register. -/
theorem upperLowerPairsRebuildTheirValue : Obligations.UpperLowerPairsRebuildTheirValue := by
  unfold Obligations.UpperLowerPairsRebuildTheirValue
  intro s rd v hrd
  refine ⟨?_, ?_, ?_⟩
  · obtain ⟨t, ht, hreg⟩ := execAll_expandLi s hrd v
    exact ⟨t, ht, hreg.value hrd, hreg.others⟩
  · obtain ⟨t, ht, hreg, hpc⟩ := execAll_upper_addi (s := s) (upper := .auipc rd (hiPart v)) rfl hrd (loPart v)
    rw [pc_add_immU_hiPart_add_immI_loPart] at hreg
    exact ⟨t, ht, hreg.value hrd, hpc, hreg.others⟩
  · obtain ⟨t, ht, hreg, hpc⟩ :=
      execAll_upper_jalr (s := s) (rd := 1#5) (upper := .auipc 1#5 (hiPart v)) rfl (by decide) (loPart v)
    rw [pc_add_immU_hiPart_add_immI_loPart] at hpc
    exact ⟨t, ht, hreg.value (by decide), hpc, hreg.others⟩

end Sys2Proof.Machine
end

section
/-! PROOFS. Addition, subtraction and the comparisons (40_integer_alu.md R402, R410, R411, R413, R414, R430–R432): all complete
by `writeRegNext`, and what is left is the value, a sum or difference modulo 2^32 or the Word of a comparison. -/

namespace Sys2Proof.Machine

/-! ### Sums and differences modulo 2^32 -/

theorem toNat_sub_eq_emod (x y : Word) : ((x - y).toNat : Int) = (x.toNat - y.toNat : Int) % 2 ^ 32 := by
  rw [BitVec.toNat_sub]
  omega

/-- Settles O32: the written value is the sum or the difference of the operands as integers, modulo 2^32. -/
theorem additionAndSubtractionWrap : Obligations.AdditionAndSubtractionWrap := by
  unfold Obligations.AdditionAndSubtractionWrap
  intro s rd rs1 rs2 imm
  refine ⟨writeRegNext_effect s rd _ ?_, writeRegNext_effect s rd _ ?_, writeRegNext_effect s rd _ ?_⟩
  · exact BitVec.toNat_add _ _
  · exact toNat_sub_eq_emod _ _
  · exact toNat_add_signExtend _ imm

/-! ### Comparisons -/

/-- imm_i, read unsigned: sign-extended first, then taken modulo 2^32 (R310, R432). -/
theorem immI_toNat (f : BitVec 12) : ((immI f).toNat : Int) = f.toInt % 2 ^ 32 := by
  have hsum := toNat_add_signExtend 0#32 f
  rwa [BitVec.zero_add, BitVec.toNat_zero, Nat.cast_zero, zero_add] at hsum

theorem lessSigned_iff {a b : Word} : lessSigned a b = true ↔ a.toInt < b.toInt := BitVec.slt_iff_toInt_lt

theorem lessUnsigned_iff {a b : Word} : lessUnsigned a b = true ↔ a.toNat < b.toNat := BitVec.ult_iff_toNat_lt

theorem boolWord_toNat {c : Bool} {P : Prop} [Decidable P] (hP : c = true ↔ P) :
    (boolWord c).toNat = if P then 1 else 0 := by
  simp only [boolWord, hP]
  split <;> rfl

/-- Settles O35: each comparison writes the Word of its condition. -/
theorem comparisonsWriteOneOrZero : Obligations.ComparisonsWriteOneOrZero := by
  unfold Obligations.ComparisonsWriteOneOrZero
  intro s rd rs1 rs2 imm
  refine ⟨writeRegNext_effect s rd _ (boolWord_toNat ?_), writeRegNext_effect s rd _ (boolWord_toNat ?_),
    writeRegNext_effect s rd _ (boolWord_toNat ?_), writeRegNext_effect s rd _ (boolWord_toNat ?_)⟩
  · exact lessSigned_iff
  · exact lessUnsigned_iff
  · rw [lessSigned_iff, immI_toInt]
  · rw [lessUnsigned_iff, ← immI_toNat, Nat.cast_lt]

end Sys2Proof.Machine
end

section
/-! PROOFS. JAL and JALR (42_control_transfer.md R620, R621): both complete by `linkAndJump`, and what is left is the target, a
sum modulo 2^32, of which JALR clears bit 0. -/

namespace Sys2Proof.Machine

/-- A jump completes: rd takes the link, pc the target, and nothing else changes. -/
theorem linkAndJump_effect (s : State) (rd : RegIdx) {target : Word} {n : Int} (hn : (target.toNat : Int) = n) :
    ∃ t v, linkAndJump s rd target = .next t ∧ OnlyWroteReg s t rd v ∧ v.toNat = (s.pc.toNat + 4) % 2 ^ 32 ∧
      (t.pc.toNat : Int) = n :=
  ⟨_, s.pc + 4#32, rfl, onlyWroteReg_setReg_continueTo s rd _ target, BitVec.toNat_add _ _, hn⟩

/-- Clearing bit 0 leaves an even word with the same upper 31 bits. -/
theorem toNat_clearBitZero (a : Word) : (a &&& 0xFFFFFFFE#32).toNat = a.toNat - a.toNat % 2 := by
  have heven : (a &&& 0xFFFFFFFE#32).toNat % 2 = 0 := evenWord_clearBitZero a
  have hupper : (a &&& 0xFFFFFFFE#32).toNat / 2 = a.toNat / 2 := by
    calc (a &&& 0xFFFFFFFE#32).toNat / 2 = a.toNat / 2 &&& (2 ^ 31 - 1) := Nat.and_div_two
      _ = a.toNat / 2 % 2 ^ 31 := Nat.and_two_pow_sub_one_eq_mod _ _
      _ = a.toNat / 2 := Nat.mod_eq_of_lt (by omega)
  omega

/-- JALR's target: the sum modulo 2^32, less its bit 0, which the wrap does not touch (R621). -/
theorem jalrTarget_toNat (s : State) (rs1 : RegIdx) (imm : BitVec 12) :
    ((jalrTarget s rs1 imm).toNat : Int) =
      ((s.reg rs1).toNat + imm.toInt) % 2 ^ 32 - ((s.reg rs1).toNat + imm.toInt) % 2 := by
  have hsum : ((s.reg rs1 + immI imm).toNat : Int) = ((s.reg rs1).toNat + imm.toInt) % 2 ^ 32 :=
    toNat_add_signExtend _ imm
  rw [jalrTarget, toNat_clearBitZero]
  omega

/-- Settles O42: both jumps link and transfer, JAL to the sum of pc and its offset, JALR to the sum with bit 0 cleared. -/
theorem jumpsLinkAndTransfer : Obligations.JumpsLinkAndTransfer := by
  unfold Obligations.JumpsLinkAndTransfer
  intro s rd rs1 offset imm
  exact ⟨linkAndJump_effect s rd (toNat_add_signExtend s.pc offset), linkAndJump_effect s rd (jalrTarget_toNat s rs1 imm)⟩

end Sys2Proof.Machine
end

section
/-! PROOFS. LUI and AUIPC (43_upper_immediate.md R700, R710, R711): both complete by `writeRegNext`, and what is left is the value,
the immediate times 4096, to which AUIPC adds the instruction's own address modulo 2^32. -/

namespace Sys2Proof.Machine

/-- Settles O36: LUI writes imm_u, which is imm20 times 4096, and AUIPC its sum with pc modulo 2^32. -/
theorem upperImmediatesFillBits31To12 : Obligations.UpperImmediatesFillBits31To12 := by
  unfold Obligations.UpperImmediatesFillBits31To12
  intro s rd imm
  have hvalue : (immU imm).toNat = imm.toNat * 4096 := (immU_toNat imm).trans (Nat.mul_comm _ _)
  refine ⟨writeRegNext_effect s rd _ hvalue, writeRegNext_effect s rd _ ?_⟩
  rw [BitVec.toNat_add, hvalue]

end Sys2Proof.Machine
end

section
/-! PROOFS. ECALL, EBREAK and the six CSR instructions (44_system.md R800, R810, R811, R820–R827), and the SYSTEM words that are
none of them (R329, R812, R828). -/

namespace Sys2Proof.Machine

/-! ### SYSTEM words that stand for no instruction (R812, R828) -/

theorem decodeSystem_eq_none {w : Word}
    (h : funct3Of w = 0b100#3 ∨ funct3Of w = 0b000#3 ∧ w ≠ 0x00000073#32 ∧ w ≠ 0x00100073#32) (rd rs1 : RegIdx)
    (csr : CsrAddr) : decodeSystem w (funct3Of w) rd rs1 csr = none := by
  obtain h4 | ⟨h0, hecall, hebreak⟩ := h
  · rw [decodeSystem_of_funct3_ne_zero (by rw [h4]; decide), h4]
    rfl
  · rw [decodeSystem, if_neg hecall, if_neg hebreak, h0]
    rfl

/-- A fetched word that is ILLEGAL traps, after its trace event (R900, R909). -/
theorem step_of_illegal {s : State} {w : Word} (hr : s.runState = .running) (ht : s.fetchTrap = none)
    (hd : decode s.cfg.fenceDecode s.fetchWord = .illegal w) :
    step s = .next ((s.emitTrace s.fetchWord).takeTrap (.illegalInstruction s.pc w)) := by
  rw [step_of_running hr, runningStep_of_fetch ht, decodeAndExecute_of_illegal (by rwa [State.emitTrace_cfg]),
    State.emitTrace_pc]

/-- Settles O13: no row of SYSTEM is left for the word, so it is ILLEGAL, and the step that fetches it traps. -/
theorem undefinedSystemWordsTrap : Obligations.UndefinedSystemWordsTrap := by
  unfold Obligations.UndefinedSystemWordsTrap
  intro w hop hw
  have hillegal (fd : FenceDecode) : decode fd w = .illegal w :=
    decode_eq_illegal.2 ((decodeInstr_of_system fd hop).trans (decodeSystem_eq_none hw _ _ _))
  refine ⟨hillegal, fun s hr halign hcap hfetch => ?_⟩
  subst hfetch
  exact ⟨_, step_of_illegal hr ((State.fetchTrap_eq_none s).2 ⟨halign, hcap⟩) (hillegal _), rfl⟩

/-! ### ECALL and EBREAK -/

/-- Settles O43: the meaning of each is its halt. -/
theorem ecallAndEbreakHalt : Obligations.EcallAndEbreakHalt := by
  unfold Obligations.EcallAndEbreakHalt
  exact fun s => ⟨rfl, rfl⟩

/-! ### The six CSR instructions are the CSR frame, each with its source and its function (R820, R822–R827) -/

section
variable (rd rs1 : RegIdx) (z : BitVec 5) (a : CsrAddr) (s : State)

theorem exec_csrrw : exec (.csrrw rd rs1 a) s = csrReadModifyWrite s rd a (s.reg rs1) fun _ src => src := rfl

theorem exec_csrrs : exec (.csrrs rd rs1 a) s = csrReadModifyWrite s rd a (s.reg rs1) fun old src => old ||| src := rfl

theorem exec_csrrc : exec (.csrrc rd rs1 a) s = csrReadModifyWrite s rd a (s.reg rs1) fun old src => old &&& ~~~src := rfl

theorem exec_csrrwi : exec (.csrrwi rd z a) s = csrReadModifyWrite s rd a (zimmWord z) fun _ src => src := rfl

theorem exec_csrrsi : exec (.csrrsi rd z a) s = csrReadModifyWrite s rd a (zimmWord z) fun old src => old ||| src := rfl

theorem exec_csrrci : exec (.csrrci rd z a) s = csrReadModifyWrite s rd a (zimmWord z) fun old src => old &&& ~~~src := rfl

end

/-! ### The CSR frame at an address of CSR_IMPL and outside it (R820, R821) -/

theorem csrEffect_setCsr_setReg_continueTo {s : State} {a : CsrAddr} {old : Word} (h : s.csr? a = some old) (rd : RegIdx)
    (new : Word) : CsrEffect s (((s.setCsr a new).setReg rd old).continueTo (s.pc + 4#32)) rd a old new where
  reg := ⟨fun hrd => State.setReg_reg_self _ old hrd, State.reg_zero _, fun r hr => by simp [State.setReg_reg_ne _ old hr]⟩
  entry := by simp [State.setCsr_csr?, h]
  others b hb := by simp [State.setCsr_csr?, hb]
  run := ⟨by simp, by simp, by simp, by simp⟩
  bytes b := by simp
  warnings := by simp
  pc := rfl

section
variable {s : State} {a : CsrAddr}

theorem csrReadModifyWrite_of_some {old : Word} (h : s.csr? a = some old) (rd : RegIdx) (src : Word)
    (f : Word → Word → Word) :
    ∃ t, csrReadModifyWrite s rd a src f = .next t ∧ CsrEffect s t rd a old (f old src) :=
  ⟨_, by rw [csrReadModifyWrite, h], csrEffect_setCsr_setReg_continueTo h rd _⟩

/-- A CSR instruction completes at an address of CSR_IMPL, and the new entry has whatever property is asked of it. -/
theorem csrReadModifyWrite_effect {old : Word} (h : s.csr? a = some old) (rd : RegIdx) {src : Word}
    {f : Word → Word → Word} {P : Word → Prop} (hP : P (f old src)) :
    ∃ t v, csrReadModifyWrite s rd a src f = .next t ∧ CsrEffect s t rd a old v ∧ P v :=
  let ⟨t, ht, heffect⟩ := csrReadModifyWrite_of_some h rd src f
  ⟨t, _, ht, heffect, hP⟩

theorem csrReadModifyWrite_of_none (h : s.csr? a = none) (rd : RegIdx) (src : Word) (f : Word → Word → Word) :
    csrReadModifyWrite s rd a src f = .next (s.continueTo (s.pc + 4#32)) := by
  rw [csrReadModifyWrite, h]

/-- Under the invariant the store has no entry at an address outside CSR_IMPL (R125). -/
theorem State.Inv.csr?_eq_none (hs : s.Inv) (h : a ∉ s.cfg.csrInit.map (fun e => e.1)) : s.csr? a = none := by
  rw [← hs.csr_impl, ← CsrStore.get?_isSome] at h
  exact Option.not_isSome_iff_eq_none.1 h

end

/-! ### The bits of the new entry -/

theorem getLsbD_and_not {k : Nat} (hk : k < 32) (x y : Word) : (x &&& ~~~y).getLsbD k = (x.getLsbD k && !y.getLsbD k) := by
  rw [BitVec.getLsbD_and, BitVec.getLsbD_not, decide_eq_true hk, Bool.true_and]

theorem zimmWord_getLsbD {k : Nat} (hk : k < 32) (z : BitVec 5) : (zimmWord z).getLsbD k = z.getLsbD k := by
  rw [zimmWord, BitVec.getLsbD_setWidth, decide_eq_true hk, Bool.true_and]

theorem zimmWord_toNat (z : BitVec 5) : (zimmWord z).toNat = z.toNat := BitVec.toNat_setWidth_of_le (by decide)

/-- Settles O44: all six are the CSR frame, and the new entry is that of the written, set or cleared bits. -/
theorem csrInstructionsReadModifyWrite : Obligations.CsrInstructionsReadModifyWrite := by
  unfold Obligations.CsrInstructionsReadModifyWrite
  intro s rd rs1 z csr old h
  rw [exec_csrrw, exec_csrrs, exec_csrrc, exec_csrrwi, exec_csrrsi, exec_csrrci]
  refine ⟨csrReadModifyWrite_of_some h rd _ _, csrReadModifyWrite_effect h rd fun k hk => ?_,
    csrReadModifyWrite_effect h rd fun k hk => ?_, csrReadModifyWrite_effect h rd ?_,
    csrReadModifyWrite_effect h rd fun k hk => ?_, csrReadModifyWrite_effect h rd fun k hk => ?_⟩
  · exact BitVec.getLsbD_or
  · exact getLsbD_and_not hk _ _
  · exact zimmWord_toNat z
  · rw [BitVec.getLsbD_or, zimmWord_getLsbD hk]
  · rw [getLsbD_and_not hk, zimmWord_getLsbD hk]

/-- Settles O45: the invariant leaves no entry at the address, and without one the CSR frame of all six moves pc only. -/
theorem unsupportedCsrIsNoOperation : Obligations.UnsupportedCsrIsNoOperation := by
  unfold Obligations.UnsupportedCsrIsNoOperation
  intro s t i rd rs1 z a hs ha hi ht
  have hnone := hs.csr?_eq_none ha
  subst ht
  refine ⟨?_, rfl⟩
  obtain rfl | rfl | rfl | rfl | rfl | rfl := hi <;>
    simp only [exec_csrrw, exec_csrrs, exec_csrrc, exec_csrrwi, exec_csrrsi, exec_csrrci, csrReadModifyWrite_of_none hnone] <;>
    rfl

end Sys2Proof.Machine
end

section
/-! PROOFS. The step of the block (60_exceptions.md R900–R909, R917, R930, R940): it always answers, what each of its kinds
answers exactly, and that a limit ends every run. -/

namespace Sys2Proof.Machine

/-! ### Every instruction and every step answers -/

theorem csrReadModifyWrite_answers (s : State) (rd : RegIdx) (a : CsrAddr) (src : Word) (f : Word → Word → Word) :
    ∃ t, csrReadModifyWrite s rd a src f = .next t := by
  cases h : s.csr? a with
  | some old =>
    obtain ⟨t, ht, -⟩ := csrReadModifyWrite_of_some h rd src f
    exact ⟨t, ht⟩
  | none => exact ⟨_, csrReadModifyWrite_of_none h rd src f⟩

/-- No instruction faults and none is refused (R906). -/
theorem exec_answers (i : Instr) (s : State) : ∃ t, exec i s = .next t := by
  cases i with
  | csrrw | csrrs | csrrc | csrrwi | csrrsi | csrrci =>
    simp only [exec_csrrw, exec_csrrs, exec_csrrc, exec_csrrwi, exec_csrrsi, exec_csrrci]
    exact csrReadModifyWrite_answers ..
  | _ => exact ⟨_, rfl⟩

/-- A failed fetch check traps (R902, R903). -/
theorem step_of_fetchTrap {s : State} {tr : Trap} (hr : s.runState = .running) (ht : s.fetchTrap = some tr) :
    step s = .next (s.takeTrap tr) := by
  rw [step_of_running hr, runningStep_of_fetchTrap ht]

/-- A decoded instruction runs after its trace event, and is counted (R900, R906–R908). -/
theorem step_of_exec {s u : State} {i : Instr} (hr : s.runState = .running) (ht : s.fetchTrap = none)
    (hd : decode s.cfg.fenceDecode s.fetchWord = .instr i) (hu : exec i (s.emitTrace s.fetchWord) = .next u) :
    step s = .next u.retire := by
  rw [step_of_running hr, runningStep_of_fetch ht, decodeAndExecute_of_instr (by rwa [State.emitTrace_cfg]), hu, retireResult]

theorem step_answers (s : State) : ∃ t, step s = .next t := by
  by_cases hr : s.runState = .running
  · cases ht : s.fetchTrap with
    | some tr => exact ⟨_, step_of_fetchTrap hr ht⟩
    | none =>
      cases hd : decode s.cfg.fenceDecode s.fetchWord with
      | instr i =>
        obtain ⟨u, hu⟩ := exec_answers i (s.emitTrace s.fetchWord)
        exact ⟨_, step_of_exec hr ht hd hu⟩
      | illegal w => exact ⟨_, step_of_illegal hr ht hd⟩
  · exact ⟨s, step_of_terminal hr⟩

/-- Settles O15: each meaning ends in a next state, and so does each kind of step. -/
theorem everyStepAnswersNextState : Obligations.EveryStepAnswersNextState := by
  unfold Obligations.EveryStepAnswersNextState
  exact ⟨exec_answers, step_answers⟩

/-! ### Terminal states -/

theorem run_of_terminal {s : State} (h : s.Terminal) (k : Nat) : Host.Core.run Sys2Proof.core k s = .next s := by
  induction k with
  | zero => rfl
  | succ k ih => rw [run_succ_of_step (step_of_terminal h), ih]

/-- Settles O16: a terminal state answers itself, and so does any number of steps from it. -/
theorem terminalStatesNeverChange : Obligations.TerminalStatesNeverChange := by
  unfold Obligations.TerminalStatesNeverChange
  exact fun s h => ⟨step_of_terminal h, run_of_terminal h⟩

/-! ### The fetch checks (R902, R903) -/

theorem State.fetchTrap_of_misaligned {s : State} (h : s.pc.toNat % 4 ≠ 0) : s.fetchTrap = some (.misalignedFetch s.pc) :=
  if_pos h

theorem State.fetchTrap_of_outOfBounds {s : State} (h : s.pc.toNat % 4 = 0) (hc : s.capacity ≤ s.pc.toNat + 3) :
    s.fetchTrap = some (.fetchOutOfBounds s.pc) := by
  rw [State.fetchTrap, if_neg (not_not.2 h), if_pos hc]

theorem add_four_mod_four {a : Word} (h : a.toNat % 4 = 0) : (a + 4#32).toNat % 4 = 0 := by
  bv_omega

/-- From an aligned pc only a control transfer, to somewhere else than the next word, leaves a misaligned one. -/
theorem exec_misaligns_pc {i : Instr} {s t : State} (h : exec i s = .next t) (hs : s.pc.toNat % 4 = 0)
    (ht : t.pc.toNat % 4 ≠ 0) : i.isControlTransfer = true ∧ t.pc ≠ s.pc + 4#32 := by
  have hne : t.pc ≠ s.pc + 4#32 := fun e => ht (e ▸ add_four_mod_four hs)
  cases hh : i.isHalt with
  | true => exact absurd (exec_pc_of_halt h hh ▸ hs) ht
  | false => exact ⟨by_contra fun hc => hne (exec_pc h (Bool.not_eq_true _ ▸ hc) hh), hne⟩

theorem State.resetWith_pc {cfg : Config} {img : List Byte} {s : State} (h : State.resetWith cfg (.bytes img) = .ok s) :
    s.pc = cfg.entryPc := by
  by_cases hfit : img.length ≤ capacityOf cfg
  · rw [State.resetWith_of_fits hfit] at h
    injection h with h
    rw [← h, State.writeBytes_pc, State.init]
  · rw [State.resetWith, if_pos (Nat.lt_of_not_le hfit)] at h
    cases h

/-- Settles O17: the first check fails, and of all steps only that of a control transfer moves pc off the words. -/
theorem misalignedFetchTraps : Obligations.MisalignedFetchTraps := by
  unfold Obligations.MisalignedFetchTraps
  refine ⟨fun s hr hm => step_of_fetchTrap hr (State.fetchTrap_of_misaligned hm), fun s t hs h ht => ?_,
    fun cfg img s => State.resetWith_pc⟩
  obtain ⟨-, rfl⟩ | ⟨-, tr, -, rfl⟩ | ⟨-, -, w, -, rfl⟩ | ⟨hr, -, i, u, hd, hu, rfl⟩ := step_cases h
  · exact absurd hs ht
  · exact absurd hs ht
  · rw [State.takeTrap_pc, State.emitTrace_pc] at ht
    exact absurd hs ht
  · have hmis := exec_misaligns_pc hu (by rwa [State.emitTrace_pc]) ht
    rw [State.emitTrace_pc] at hmis
    exact ⟨hr, i, hd, hmis⟩

theorem State.sixteen_dvd_capacity (s : State) : 16 ∣ s.capacity := sixteen_dvd_capacityOf s.cfg

/-- MEM_REQ is at most 2^32, a multiple of 16, and so is CAP (R7, R216). -/
theorem State.capacity_le_of_wf {s : State} (h : s.cfg.wf) : s.capacity ≤ 2 ^ 32 :=
  capacityOf_le_of_dvd (by decide) h.1

/-- Settles O18: the second check fails; CAP and an aligned pc are multiples of 4, so the three forms of the test agree. -/
theorem outOfBoundsFetchTraps : Obligations.OutOfBoundsFetchTraps := by
  unfold Obligations.OutOfBoundsFetchTraps
  refine ⟨fun s hr hm hc => step_of_fetchTrap hr (State.fetchTrap_of_outOfBounds hm hc), fun s hm hpos => ?_,
    fun s hwf hpc => ?_, fun s hr hcap => ?_⟩
  · have hdvd := s.sixteen_dvd_capacity
    omega
  · have hle := State.capacity_le_of_wf hwf
    have hnat : s.pc.toNat = 2 ^ 32 - 4 := by rw [hpc]; rfl
    omega
  · cases ht : s.fetchTrap with
    | some tr => exact ⟨_, tr, step_of_fetchTrap hr ht, rfl⟩
    | none =>
      have hlt := ((State.fetchTrap_eq_none s).1 ht).2
      omega

/-! ### The exact next state of a fetched word (R900, R908, R909, R930) -/

theorem State.emitTrace_eq (s : State) (w : Word) :
    s.emitTrace w = { s with trace := if s.cfg.traceEn then s.trace ++ [⟨s.pc, w⟩] else s.trace } := by
  unfold State.emitTrace; split <;> rfl

theorem State.retire_eq (s : State) :
    s.retire = { s with
      retired := s.retired + 1#64
      runState :=
        if s.runState = .running ∧ s.cfg.execLimit ≠ 0#64 ∧ s.cfg.execLimit ≤ s.retired + 1#64 then .halted .limitReached
        else s.runState } := by
  simp only [State.retire, limitReached_iff]

/-- A halt is counted and keeps its reason: the limit is tested after a Continue only (R908). -/
theorem State.haltWith_retire (s : State) (r : HaltReason) :
    (s.haltWith r).retire = { s with runState := .halted r, retired := s.retired + 1#64 } := by
  simp [State.retire, State.haltWith]

/-- Settles O14: the three parts of the step, each as an update of its fields. -/
theorem stepRunsDecodedInstruction : Obligations.StepRunsDecodedInstruction := by
  unfold Obligations.StepRunsDecodedInstruction
  intro s t i hr hm hc hd hexec
  rw [← State.retire_eq]
  refine step_of_exec hr ((State.fetchTrap_eq_none s).2 ⟨hm, hc⟩) hd ?_
  rw [State.emitTrace_eq]
  exact hexec

/-- Settles O19: the step of an ILLEGAL word is its trace event and its trap. -/
theorem illegalWordTraps : Obligations.IllegalWordTraps := by
  unfold Obligations.IllegalWordTraps
  intro s hr hm hc hd
  rw [step_of_illegal hr ((State.fetchTrap_eq_none s).2 ⟨hm, hc⟩) hd, State.emitTrace_eq]
  rfl

/-- Settles O20: the step of ECALL or EBREAK is its trace event and its halt, counted. -/
theorem haltCountsAndKeepsPc : Obligations.HaltCountsAndKeepsPc := by
  unfold Obligations.HaltCountsAndKeepsPc
  intro s i r hr hm hc hd hi
  have hexec : exec i (s.emitTrace s.fetchWord) = .next ((s.emitTrace s.fetchWord).haltWith r) := by
    obtain ⟨rfl, rfl⟩ | ⟨rfl, rfl⟩ := hi <;> rfl
  rw [step_of_exec hr ((State.fetchTrap_eq_none s).2 ⟨hm, hc⟩) hd hexec, State.haltWith_retire, State.emitTrace_eq]
  rfl

/-! ### A Continue (R907) -/

theorem alikeButOutputs_emitTrace (s : State) (w : Word) : AlikeButOutputs s (s.emitTrace w) := by
  rw [State.emitTrace_eq]; rfl

/-- The trace event before an instruction does not change where it goes (R145). -/
theorem exec_emitTrace_pc {i : Instr} {s u : State} {w : Word} (h : exec i (s.emitTrace w) = .next u) :
    ∃ u', exec i s = .next u' ∧ u.pc = u'.pc := by
  have halike := alikeButOutputs_emitTrace s w
  obtain ⟨u', v, hu', hv, hR⟩ := exec_related (AlikeButOutputs.respects i) halike (halike.readsAlike i)
  rw [h] at hv
  injection hv with hv
  exact ⟨u', hu', hv ▸ hR.pc⟩

/-- Below the limit one more instruction reaches it exactly by standing at it (D8, D10). -/
theorem limit_le_succ_iff {limit n : BitVec 64} (h : n < limit) : limit ≤ n + 1#64 ↔ n + 1#64 = limit := by
  bv_omega

theorem State.Inv.retired_lt {s : State} (hs : s.Inv) (hr : s.runState = .running) (hl : s.cfg.execLimit ≠ 0#64) :
    s.retired < s.cfg.execLimit :=
  ((State.recordOk_of_running hr).1 hs.record).resolve_left hl

/-- Settles O21: the instruction moves pc, and the counting of a Running block tests the limit. -/
theorem continueRetiresAndTestsLimit : Obligations.ContinueRetiresAndTestsLimit := by
  unfold Obligations.ContinueRetiresAndTestsLimit
  intro s i hr hm hc hd hi
  obtain ⟨v, hv⟩ := exec_answers i (s.emitTrace s.fetchWord)
  obtain ⟨u, hu, hpc⟩ := exec_emitTrace_pc hv
  obtain ⟨hcfg, hret, -⟩ := exec_keeps_cfg hv
  have hrun : v.runState = .running := by rw [exec_runState_of_not_halt hv hi, State.emitTrace_runState, hr]
  rw [State.emitTrace_cfg] at hcfg
  rw [State.emitTrace_retired] at hret
  refine ⟨u, _, hu, step_of_exec hr ((State.fetchTrap_eq_none s).2 ⟨hm, hc⟩) hd hv, hpc, ?_, fun hl => ?_, fun hl => ?_,
    fun hs hl => limit_le_succ_iff (hs.retired_lt hr hl)⟩
  · rw [State.retire_retired, hret]
  · rw [State.retire_runState, hcfg, hret, if_pos ⟨hrun, limitReached_iff.2 hl⟩]
  · rw [State.retire_runState, hcfg, hret, if_neg fun h => hl (limitReached_iff.1 h.2), hrun]

/-! ### Traps and the trace (R917, R930) -/

/-- A counted instruction leaves a Running or a Halted block, never a Trapped one. -/
theorem exec_retire_not_trapped {i : Instr} {s t : State} {tr : Trap} (h : exec i s = .next t) (hr : s.runState = .running) :
    t.retire.runState ≠ .trapped tr := by
  cases hi : i.isHalt with
  | true =>
    obtain ⟨r, -, rfl⟩ := exec_eq_haltWith h hi
    simp
  | false =>
    rw [State.retire_runState, exec_runState_of_not_halt h hi, hr]
    split <;> simp

theorem State.fetchTrap_pc {s : State} {tr : Trap} (h : s.fetchTrap = some tr) : tr.pc = s.pc := by
  obtain ⟨rfl, -⟩ | ⟨rfl, -⟩ := State.fetchTrap_eq_some h <;> rfl

/-- Settles O22: a trap is taken from the fetched state, with at most its trace event; an instruction takes none. -/
theorem trapsArePrecise : Obligations.TrapsArePrecise := by
  unfold Obligations.TrapsArePrecise
  intro s t tr hr h htr
  obtain ⟨hn, -⟩ | ⟨-, tr', ht, rfl⟩ | ⟨-, -, w, -, rfl⟩ | ⟨-, -, i, u, -, hu, rfl⟩ := step_cases h
  · exact absurd hr hn
  · obtain rfl : tr' = tr := by simpa using htr
    exact ⟨rfl, State.fetchTrap_pc ht⟩
  · obtain rfl : Trap.illegalInstruction s.pc w = tr := by simpa using htr
    rw [State.emitTrace_eq]
    exact ⟨rfl, rfl⟩
  · exact absurd htr (exec_retire_not_trapped hu (by rwa [State.emitTrace_runState]))

/-- The trace after a step, by the fetch checks. -/
theorem step_trace {s t : State} (hr : s.runState = .running) (h : step s = .next t) :
    t.trace = if s.cfg.traceEn = true ∧ s.fetchTrap = none then s.trace ++ [⟨s.pc, s.fetchWord⟩] else s.trace := by
  obtain ⟨hn, -⟩ | ⟨-, tr, ht, rfl⟩ | ⟨-, ht, w, -, rfl⟩ | ⟨-, ht, i, u, -, hu, rfl⟩ := step_cases h
  · exact absurd hr hn
  · simp [ht]
  · simp [ht]
  · obtain ⟨-, -, htrace⟩ := exec_keeps_cfg hu
    simp [ht, htrace]

/-- Settles O23: the fetch checks pass exactly for an aligned pc whose word is below CAP. -/
theorem traceEmitsOneEventPerFetch : Obligations.TraceEmitsOneEventPerFetch := by
  unfold Obligations.TraceEmitsOneEventPerFetch
  intro s t hr h
  simpa only [State.fetchTrap_eq_none, State.fetchWord] using step_trace hr h

/-! ### A limit ends every run (R940) -/

/-- The steps the counter has left before the limit. -/
def State.stepsLeft (s : State) : Nat := s.cfg.execLimit.toNat - s.retired.toNat

/-- A step that leaves the block Running has run an instruction and counted it. -/
theorem step_retired_of_running {s t : State} (hr : s.runState = .running) (h : step s = .next t)
    (ht : t.runState = .running) : t.retired = s.retired + 1#64 := by
  obtain ⟨hn, -⟩ | ⟨-, tr, -, rfl⟩ | ⟨-, -, w, -, rfl⟩ | ⟨-, -, i, u, -, hu, rfl⟩ := step_cases h
  · exact absurd hr hn
  · cases ht
  · cases ht
  · obtain ⟨-, hret, -⟩ := exec_keeps_cfg hu
    rw [State.retire_retired, hret, State.emitTrace_retired]

/-- A Running block below its limit has a step left, and a step that leaves it Running uses one up. -/
theorem step_stepsLeft {s t : State} (hs : s.Inv) (hr : s.runState = .running) (hl : s.cfg.execLimit ≠ 0#64)
    (h : step s = .next t) (ht : t.runState = .running) : t.stepsLeft + 1 = s.stepsLeft := by
  have hlt := hs.retired_lt hr hl
  rw [State.stepsLeft, State.stepsLeft, step_keeps_cfg h, step_retired_of_running hr h ht]
  bv_omega

theorem State.Inv.stepsLeft_pos {s : State} (hs : s.Inv) (hr : s.runState = .running) (hl : s.cfg.execLimit ≠ 0#64) :
    0 < s.stepsLeft :=
  Nat.sub_pos_of_lt (BitVec.lt_def.1 (hs.retired_lt hr hl))

/-- By recursion on the steps left: the first step ends the run or leaves one step less. -/
theorem State.Inv.run_reaches_terminal {s : State} (hs : s.Inv) (hr : s.runState = .running) (hl : s.cfg.execLimit ≠ 0#64) :
    ∃ (k : Nat) (t : State), k ≤ s.stepsLeft ∧ Host.Core.run Sys2Proof.core k s = .next t ∧ t.Terminal := by
  induction hn : s.stepsLeft generalizing s with
  | zero => exact absurd hn (hs.stepsLeft_pos hr hl).ne'
  | succ n ih =>
    obtain ⟨u, hu⟩ := step_answers s
    by_cases hur : u.runState = .running
    · have hleft : u.stepsLeft = n := by
        have hfall := step_stepsLeft hs hr hl hu hur
        omega
      obtain ⟨k, t, hk, hrun, ht⟩ := ih (stepKeepsInvariant s u hs hu) hur (step_keeps_cfg hu ▸ hl) hleft
      exact ⟨k + 1, t, Nat.succ_le_succ hk, (run_succ_of_step hu k).trans hrun, ht⟩
    · exact ⟨1, u, Nat.le_add_left 1 n, run_succ_of_step hu 0, hur⟩

/-- Settles O25: the steps left fall with every step that leaves the block Running. -/
theorem runEndsWithinExecutionLimit : Obligations.RunEndsWithinExecutionLimit := by
  unfold Obligations.RunEndsWithinExecutionLimit
  exact fun s hs hr hl => hs.run_reaches_terminal hr hl

end Sys2Proof.Machine
end

section
/-! PROOFS. Reset and the load of the image (70_reset_and_hazards.md R1000, R1001; 20_memory.md R218, R219): when a load fails,
and the invariant of a state that a reset leaves. -/

namespace Sys2Proof.Machine

/-! ### The two outcomes of a load -/

/-- An image of more than CAP bytes does not load (R219). -/
theorem State.resetWith_of_too_large {cfg : Config} {img : List Byte} (h : capacityOf cfg < img.length) :
    State.resetWith cfg (.bytes img) = .error .fileTooLarge := by
  rw [State.resetWith, if_pos h]

/-- A reset that leaves a state has loaded an image that fits over the fresh state (R1000). -/
theorem State.resetWith_eq_ok_iff {cfg : Config} {img : List Byte} {s : State} :
    State.resetWith cfg (.bytes img) = .ok s ↔ img.length ≤ capacityOf cfg ∧ (State.init cfg).writeBytes 0 img = s := by
  by_cases hfit : img.length ≤ capacityOf cfg
  · simp [State.resetWith_of_fits hfit, hfit]
  · simp [State.resetWith_of_too_large (Nat.lt_of_not_le hfit), hfit]

theorem loadStatus_of_ok {cfg : Config} {src : ImageSource} {s : State} (h : State.resetWith cfg src = .ok s) :
    loadStatus cfg src = .ok := by
  rw [loadStatus, h]

theorem loadStatus_of_error {cfg : Config} {src : ImageSource} {e : LoadFailure} (h : State.resetWith cfg src = .error e) :
    loadStatus cfg src = .failed e := by
  rw [loadStatus, h]

/-- Settles O2: an image loads exactly when it fits, `load_status` is the outcome's, and the empty image writes no byte. -/
theorem loadFailureStartsNoRun : Obligations.LoadFailureStartsNoRun := by
  unfold Obligations.LoadFailureStartsNoRun
  intro cfg
  have hunreadable : State.resetWith cfg .unreadable = .error .fileUnreadable := rfl
  refine ⟨⟨hunreadable, loadStatus_of_error hunreadable⟩, fun img hlarge => ?_, fun img hfit => ?_, ?_⟩
  · have hfail := State.resetWith_of_too_large hlarge
    exact ⟨hfail, loadStatus_of_error hfail⟩
  · have hload := State.resetWith_of_fits hfit
    exact ⟨⟨_, hload⟩, loadStatus_of_ok hload⟩
  · have hempty : ([] : List Byte).length ≤ capacityOf cfg := Nat.zero_le _
    exact ⟨State.init cfg, State.resetWith_of_fits hempty, fun a ha => State.init_readByte ha⟩

/-! ### Reset meets the invariant -/

/-- A Running block that has retired nothing is below its limit, or has none (R907, D7). -/
theorem State.recordOk_of_retired_zero {s : State} (hr : s.runState = .running) (h0 : s.retired = 0#64) : s.recordOk := by
  rw [State.recordOk_of_running hr, h0]
  by_cases hl : s.cfg.execLimit = 0#64
  · exact .inl hl
  · exact .inr ((BitVec.pos_iff_ne_zero _).2 hl)

/-- The fresh state lists no cell, holds 0 in x0 and has the CSR store of CSR_INIT (R1000). -/
theorem State.init_inv {cfg : Config} (h : cfg.wf) : (State.init cfg).Inv where
  cfg_wf := h
  mem_wf := ⟨.nil, nofun⟩
  x0_zero := by simp [State.init]
  csr_impl := rfl
  record := State.recordOk_of_retired_zero rfl rfl

/-- Loading bytes keeps the invariant of a Running block that has retired nothing. -/
theorem State.Inv.writeBytes {s : State} (h : s.Inv) (hr : s.runState = .running) (h0 : s.retired = 0#64) (a : Nat)
    (bs : List Byte) : (s.writeBytes a bs).Inv where
  cfg_wf := by simpa using h.cfg_wf
  mem_wf := by simpa using State.writeBytes_mem_wf a bs h.mem_wf
  x0_zero := by simpa using h.x0_zero
  csr_impl := by simpa using h.csr_impl
  record := State.recordOk_of_retired_zero (by simpa using hr) (by simpa using h0)

theorem Config.atReset_wf : Config.atReset.wf := by decide

/-- Settles O3: the fresh state meets the invariant, and loading the image keeps it. -/
theorem resetSatisfiesInvariant : Obligations.ResetSatisfiesInvariant := by
  unfold Obligations.ResetSatisfiesInvariant
  refine ⟨fun cfg img s hwf hs => ?_, State.init_inv Config.atReset_wf⟩
  obtain ⟨-, rfl⟩ := State.resetWith_eq_ok_iff.1 hs
  exact (State.init_inv hwf).writeBytes rfl rfl 0 img

end Sys2Proof.Machine
end
